-- ==== Sys2Proof/Word.lean ====
section
/-! DEFINITION. The widths the spec treats as bits (00_scope.md R8, R9) and the register numbers. -/

namespace Sys2Proof

/-- A byte of memory or a general register (10_state.md R20, R22). -/
abbrev Byte := BitVec 8

/-- A 16-bit value: an instruction word, `I`, `PC`, a stack slot (10_state.md R25, R26, R28). -/
abbrev Word := BitVec 16

/-- The 12-bit immediate address `nnn` (30_encoding.md R73). -/
abbrev Addr12 := BitVec 12

/-- A general register number, 0 to 15 (10_state.md R22). -/
abbrev Reg := Fin 16

/-- A key number, 0 to 15 (44_keypad.md R185). -/
abbrev Key := Fin 16

end Sys2Proof
end

