-- ==== Sys2Proof/Syntax.lean ====
section
/-! DEFINITION. The instructions: one constructor per row of spec/opcode_table.json (30_encoding.md R77, R78). -/

namespace Sys2Proof

/-- A decoded instruction with the operand fields of its format (30_encoding.md R74): `x`, `y` register numbers, `kk` the
immediate byte, `nnn` the immediate address, `n` the row count of a sprite. -/
inductive Instr where
  /-- Row 1, `00E0`. -/
  | cls
  /-- Row 2, `00EE`. -/
  | ret
  /-- Row 3, `1nnn`. -/
  | jp (nnn : Addr12)
  /-- Row 4, `2nnn`. -/
  | call (nnn : Addr12)
  /-- Row 5, `3xkk`. -/
  | seVxKk (x : Reg) (kk : Byte)
  /-- Row 6, `4xkk`. -/
  | sneVxKk (x : Reg) (kk : Byte)
  /-- Row 7, `5xy0`. -/
  | seVxVy (x y : Reg)
  /-- Row 8, `6xkk`. -/
  | ldVxKk (x : Reg) (kk : Byte)
  /-- Row 9, `7xkk`. -/
  | addVxKk (x : Reg) (kk : Byte)
  /-- Row 10, `8xy0`. -/
  | ldVxVy (x y : Reg)
  /-- Row 11, `8xy1`. -/
  | orVxVy (x y : Reg)
  /-- Row 12, `8xy2`. -/
  | andVxVy (x y : Reg)
  /-- Row 13, `8xy3`. -/
  | xorVxVy (x y : Reg)
  /-- Row 14, `8xy4`. -/
  | addVxVy (x y : Reg)
  /-- Row 15, `8xy5`. -/
  | subVxVy (x y : Reg)
  /-- Row 16, `8xy6`. -/
  | shrVxVy (x y : Reg)
  /-- Row 17, `8xy7`. -/
  | subnVxVy (x y : Reg)
  /-- Row 18, `8xyE`. -/
  | shlVxVy (x y : Reg)
  /-- Row 19, `9xy0`. -/
  | sneVxVy (x y : Reg)
  /-- Row 20, `Annn`. -/
  | ldINnn (nnn : Addr12)
  /-- Row 21, `Bnnn`. -/
  | jpV0Nnn (nnn : Addr12)
  /-- Row 22, `Cxkk`. -/
  | rndVxKk (x : Reg) (kk : Byte)
  /-- Row 23, `Dxyn`. -/
  | drw (x y : Reg) (n : Nat)
  /-- Row 24, `Ex9E`. -/
  | skp (x : Reg)
  /-- Row 25, `ExA1`. -/
  | sknp (x : Reg)
  /-- Row 26, `Fx07`. -/
  | ldVxDt (x : Reg)
  /-- Row 27, `Fx0A`. -/
  | ldVxK (x : Reg)
  /-- Row 28, `Fx15`. -/
  | ldDtVx (x : Reg)
  /-- Row 29, `Fx18`. -/
  | ldStVx (x : Reg)
  /-- Row 30, `Fx1E`. -/
  | addIVx (x : Reg)
  /-- Row 31, `Fx29`. -/
  | ldFVx (x : Reg)
  /-- Row 32, `Fx33`. -/
  | ldBVx (x : Reg)
  /-- Row 33, `Fx55`. -/
  | ldMemVx (x : Reg)
  /-- Row 34, `Fx65`. -/
  | ldVxMem (x : Reg)
  deriving DecidableEq, Repr

end Sys2Proof
end

