-- ==== Sys2Proof/WellFormed.lean ====
section
/-! DEFINITION. Which instruction terms stand for an instruction word. -/

namespace Sys2Proof

/-- An instruction is well-formed when every operand fits its field (30_encoding.md R73). Register numbers, `kk` and `nnn`
fit by their types; the row count `n` of `Dxyn` is a plain count and must be at most 15. -/
def wellFormed : Instr → Bool
  | .drw _ _ n => decide (n < 16)
  | .cls | .ret | .jp _ | .call _ | .ldINnn _ | .jpV0Nnn _ => true
  | .seVxKk _ _ | .sneVxKk _ _ | .ldVxKk _ _ | .addVxKk _ _ | .rndVxKk _ _ => true
  | .seVxVy _ _ | .sneVxVy _ _ | .ldVxVy _ _ | .orVxVy _ _ | .andVxVy _ _ | .xorVxVy _ _ => true
  | .addVxVy _ _ | .subVxVy _ _ | .shrVxVy _ _ | .subnVxVy _ _ | .shlVxVy _ _ => true
  | .skp _ | .sknp _ | .ldVxDt _ | .ldVxK _ | .ldDtVx _ | .ldStVx _ | .addIVx _ | .ldFVx _ => true
  | .ldBVx _ | .ldMemVx _ | .ldVxMem _ => true

end Sys2Proof
end

