-- ==== Sys2Proof/Decode.lean ====
section
/-! DEFINITION. Decoding instruction words, and after it their encoding (30_encoding.md R70 to R81). -/

namespace Sys2Proof

/-- Two bytes as a big-endian word: the byte at the lower address is the high one (20_memory.md R52, R61). -/
def joinBytes (hi lo : Byte) : Word := hi ++ lo

/-- The byte of a word that lies at the lower address (20_memory.md R61). -/
def highByte (w : Word) : Byte := w.extractLsb' 8 8

/-- The byte of a word that lies at the higher address (20_memory.md R61). -/
def lowByte (w : Word) : Byte := w.extractLsb' 0 8

/-- Field `op` = `w[15:12]` (30_encoding.md R73). -/
def opField (w : Word) : BitVec 4 := w.extractLsb' 12 4

/-- Field `x` = `w[11:8]` (30_encoding.md R73). -/
def xField (w : Word) : Reg := (w.extractLsb' 8 4).toFin

/-- Field `y` = `w[7:4]` (30_encoding.md R73). -/
def yField (w : Word) : Reg := (w.extractLsb' 4 4).toFin

/-- Field `n` = `w[3:0]` (30_encoding.md R73). -/
def nField (w : Word) : BitVec 4 := w.extractLsb' 0 4

/-- Field `kk` = `w[7:0]` (30_encoding.md R73). -/
def kkField (w : Word) : Byte := w.extractLsb' 0 8

/-- Field `nnn` = `w[11:0]` (30_encoding.md R73). -/
def nnnField (w : Word) : Addr12 := w.extractLsb' 0 12

/-- Why bytes are no instruction: one name for each row of the table of illegal words (30_encoding.md R79), and one for
fewer than two bytes. -/
inductive Reject where
  /-- A word `0nnn` that is neither 0x00E0 nor 0x00EE. -/
  | illegal0 (w : Word)
  /-- A word `5xyN` with `N` other than 0. -/
  | illegal5 (w : Word)
  /-- A word `8xyN` with `N` one of 8 to 0xD and 0xF. -/
  | illegal8 (w : Word)
  /-- A word `9xyN` with `N` other than 0. -/
  | illegal9 (w : Word)
  /-- A word `Exkk` with `kk` other than 0x9E and 0xA1. -/
  | illegalE (w : Word)
  /-- A word `Fxkk` with `kk` none of the nine secondary opcodes. -/
  | illegalF (w : Word)
  /-- Fewer than two bytes. -/
  | tooShort
  deriving DecidableEq, Repr

/-- The secondary dispatch of high nibble 8 on `n` (30_encoding.md R76). -/
def decode8 (w : Word) : Except Reject Instr :=
  match (nField w).toNat with
  | 0x0 => .ok (.ldVxVy (xField w) (yField w))
  | 0x1 => .ok (.orVxVy (xField w) (yField w))
  | 0x2 => .ok (.andVxVy (xField w) (yField w))
  | 0x3 => .ok (.xorVxVy (xField w) (yField w))
  | 0x4 => .ok (.addVxVy (xField w) (yField w))
  | 0x5 => .ok (.subVxVy (xField w) (yField w))
  | 0x6 => .ok (.shrVxVy (xField w) (yField w))
  | 0x7 => .ok (.subnVxVy (xField w) (yField w))
  | 0xE => .ok (.shlVxVy (xField w) (yField w))
  | _ => .error (.illegal8 w)

/-- The secondary dispatch of high nibble 0xF on `kk` (30_encoding.md R76). -/
def decodeF (w : Word) : Except Reject Instr :=
  match (kkField w).toNat with
  | 0x07 => .ok (.ldVxDt (xField w))
  | 0x0A => .ok (.ldVxK (xField w))
  | 0x15 => .ok (.ldDtVx (xField w))
  | 0x18 => .ok (.ldStVx (xField w))
  | 0x1E => .ok (.addIVx (xField w))
  | 0x29 => .ok (.ldFVx (xField w))
  | 0x33 => .ok (.ldBVx (xField w))
  | 0x55 => .ok (.ldMemVx (xField w))
  | 0x65 => .ok (.ldVxMem (xField w))
  | _ => .error (.illegalF w)

/-- `Decode` (30_encoding.md R76), with the exact match of every printed digit. DESIGN CHOICE of the spec, decision D10,
entry 21. -/
def decodeWord (w : Word) : Except Reject Instr :=
  match (opField w).toNat with
  | 0x0 => if w = 0x00E0 then .ok .cls else if w = 0x00EE then .ok .ret else .error (.illegal0 w)
  | 0x1 => .ok (.jp (nnnField w))
  | 0x2 => .ok (.call (nnnField w))
  | 0x3 => .ok (.seVxKk (xField w) (kkField w))
  | 0x4 => .ok (.sneVxKk (xField w) (kkField w))
  | 0x5 => if nField w = 0 then .ok (.seVxVy (xField w) (yField w)) else .error (.illegal5 w)
  | 0x6 => .ok (.ldVxKk (xField w) (kkField w))
  | 0x7 => .ok (.addVxKk (xField w) (kkField w))
  | 0x8 => decode8 w
  | 0x9 => if nField w = 0 then .ok (.sneVxVy (xField w) (yField w)) else .error (.illegal9 w)
  | 0xA => .ok (.ldINnn (nnnField w))
  | 0xB => .ok (.jpV0Nnn (nnnField w))
  | 0xC => .ok (.rndVxKk (xField w) (kkField w))
  | 0xD => .ok (.drw (xField w) (yField w) (nField w).toNat)
  | 0xE =>
    if kkField w = 0x9E then .ok (.skp (xField w))
    else if kkField w = 0xA1 then .ok (.sknp (xField w))
    else .error (.illegalE w)
  | _ => decodeF w

/-- Decoding any bytes: the instruction of the first two and the bytes after them (30_encoding.md R72: there is one
length). -/
def decode : List Byte → Except Reject (Instr × List Byte)
  | hi :: lo :: rest => (decodeWord (joinBytes hi lo)).map (·, rest)
  | _ => .error .tooShort

/-- The instruction the decoder reads from a word whose bits are `w`, laid out in memory as the hardware stores it; none
for more bits than an instruction has, for a number that is wider than `nbits`, and for an illegal word. -/
def decodeTableWord (nbits w : Nat) : Option Instr :=
  if nbits ≤ 16 ∧ w < 2 ^ nbits then
    match decode [highByte (BitVec.ofNat 16 w), lowByte (BitVec.ofNat 16 w)] with
    | .ok (i, _) => some i
    | .error _ => none
  else none

/-- A register number as a nibble of the word. -/
def nibble (x : Reg) : BitVec 4 := BitVec.ofNat 4 x.val

/-- The word of an instruction, written from the column "encoding" of the opcode table (30_encoding.md R78). Of an
ill-formed `drw` the row count loses its upper bits. -/
def encode : Instr → Word
  | .cls => 0x00E0
  | .ret => 0x00EE
  | .jp nnn => 0x1#4 ++ nnn
  | .call nnn => 0x2#4 ++ nnn
  | .seVxKk x kk => 0x3#4 ++ nibble x ++ kk
  | .sneVxKk x kk => 0x4#4 ++ nibble x ++ kk
  | .seVxVy x y => 0x5#4 ++ nibble x ++ nibble y ++ 0x0#4
  | .ldVxKk x kk => 0x6#4 ++ nibble x ++ kk
  | .addVxKk x kk => 0x7#4 ++ nibble x ++ kk
  | .ldVxVy x y => 0x8#4 ++ nibble x ++ nibble y ++ 0x0#4
  | .orVxVy x y => 0x8#4 ++ nibble x ++ nibble y ++ 0x1#4
  | .andVxVy x y => 0x8#4 ++ nibble x ++ nibble y ++ 0x2#4
  | .xorVxVy x y => 0x8#4 ++ nibble x ++ nibble y ++ 0x3#4
  | .addVxVy x y => 0x8#4 ++ nibble x ++ nibble y ++ 0x4#4
  | .subVxVy x y => 0x8#4 ++ nibble x ++ nibble y ++ 0x5#4
  | .shrVxVy x y => 0x8#4 ++ nibble x ++ nibble y ++ 0x6#4
  | .subnVxVy x y => 0x8#4 ++ nibble x ++ nibble y ++ 0x7#4
  | .shlVxVy x y => 0x8#4 ++ nibble x ++ nibble y ++ 0xE#4
  | .sneVxVy x y => 0x9#4 ++ nibble x ++ nibble y ++ 0x0#4
  | .ldINnn nnn => 0xA#4 ++ nnn
  | .jpV0Nnn nnn => 0xB#4 ++ nnn
  | .rndVxKk x kk => 0xC#4 ++ nibble x ++ kk
  | .drw x y n => 0xD#4 ++ nibble x ++ nibble y ++ BitVec.ofNat 4 n
  | .skp x => 0xE#4 ++ nibble x ++ 0x9E#8
  | .sknp x => 0xE#4 ++ nibble x ++ 0xA1#8
  | .ldVxDt x => 0xF#4 ++ nibble x ++ 0x07#8
  | .ldVxK x => 0xF#4 ++ nibble x ++ 0x0A#8
  | .ldDtVx x => 0xF#4 ++ nibble x ++ 0x15#8
  | .ldStVx x => 0xF#4 ++ nibble x ++ 0x18#8
  | .addIVx x => 0xF#4 ++ nibble x ++ 0x1E#8
  | .ldFVx x => 0xF#4 ++ nibble x ++ 0x29#8
  | .ldBVx x => 0xF#4 ++ nibble x ++ 0x33#8
  | .ldMemVx x => 0xF#4 ++ nibble x ++ 0x55#8
  | .ldVxMem x => 0xF#4 ++ nibble x ++ 0x65#8

/-- The columns "mask" and "match" of an instruction's row of the opcode table (30_encoding.md R78), in that order. -/
def maskMatch : Instr → Word × Word
  | .cls => (0xFFFF, 0x00E0)
  | .ret => (0xFFFF, 0x00EE)
  | .jp _ => (0xF000, 0x1000)
  | .call _ => (0xF000, 0x2000)
  | .seVxKk _ _ => (0xF000, 0x3000)
  | .sneVxKk _ _ => (0xF000, 0x4000)
  | .seVxVy _ _ => (0xF00F, 0x5000)
  | .ldVxKk _ _ => (0xF000, 0x6000)
  | .addVxKk _ _ => (0xF000, 0x7000)
  | .ldVxVy _ _ => (0xF00F, 0x8000)
  | .orVxVy _ _ => (0xF00F, 0x8001)
  | .andVxVy _ _ => (0xF00F, 0x8002)
  | .xorVxVy _ _ => (0xF00F, 0x8003)
  | .addVxVy _ _ => (0xF00F, 0x8004)
  | .subVxVy _ _ => (0xF00F, 0x8005)
  | .shrVxVy _ _ => (0xF00F, 0x8006)
  | .subnVxVy _ _ => (0xF00F, 0x8007)
  | .shlVxVy _ _ => (0xF00F, 0x800E)
  | .sneVxVy _ _ => (0xF00F, 0x9000)
  | .ldINnn _ => (0xF000, 0xA000)
  | .jpV0Nnn _ => (0xF000, 0xB000)
  | .rndVxKk _ _ => (0xF000, 0xC000)
  | .drw _ _ _ => (0xF000, 0xD000)
  | .skp _ => (0xF0FF, 0xE09E)
  | .sknp _ => (0xF0FF, 0xE0A1)
  | .ldVxDt _ => (0xF0FF, 0xF007)
  | .ldVxK _ => (0xF0FF, 0xF00A)
  | .ldDtVx _ => (0xF0FF, 0xF015)
  | .ldStVx _ => (0xF0FF, 0xF018)
  | .addIVx _ => (0xF0FF, 0xF01E)
  | .ldFVx _ => (0xF0FF, 0xF029)
  | .ldBVx _ => (0xF0FF, 0xF033)
  | .ldMemVx _ => (0xF0FF, 0xF055)
  | .ldVxMem _ => (0xF0FF, 0xF065)

/-- The mask and match columns of all 34 rows, in the order of the table (30_encoding.md R78). -/
def opcodeRows : List (Word × Word) :=
  ([.cls, .ret, .jp 0, .call 0, .seVxKk 0 0, .sneVxKk 0 0, .seVxVy 0 0, .ldVxKk 0 0, .addVxKk 0 0, .ldVxVy 0 0, .orVxVy 0 0,
    .andVxVy 0 0] : List Instr).map maskMatch
  ++ ([.xorVxVy 0 0, .addVxVy 0 0, .subVxVy 0 0, .shrVxVy 0 0, .subnVxVy 0 0, .shlVxVy 0 0, .sneVxVy 0 0, .ldINnn 0,
    .jpV0Nnn 0, .rndVxKk 0 0, .drw 0 0 0] : List Instr).map maskMatch
  ++ ([.skp 0, .sknp 0, .ldVxDt 0, .ldVxK 0, .ldDtVx 0, .ldStVx 0, .addIVx 0, .ldFVx 0, .ldBVx 0, .ldMemVx 0, .ldVxMem 0]
    : List Instr).map maskMatch

end Sys2Proof
end

