-- ==== Sys2Proof/Config.lean ====
section
/-! DEFINITION. What an instance fixes, and the inputs and parameters the spec leaves open: constants without a value. -/

namespace Sys2Proof

/-- The four quirk toggles (10_state.md R32). -/
structure Quirks where
  /-- `SHIFT_QUIRK`: `8xy6` and `8xyE` take `Vy` as their source. -/
  shift : Bool
  /-- `JUMP_QUIRK`: `Bnnn` adds the register that the high nibble of `nnn` names. -/
  jump : Bool
  /-- `ADD_CARRY_QUIRK`: `Fx1E` sets `VF` when the sum passes 0x0FFF. -/
  addCarry : Bool
  /-- `INCREMENT_QUIRK`: `Fx55` and `Fx65` advance `I`. -/
  increment : Bool
  deriving DecidableEq, Repr, Inhabited

/-- The answer of `poll_events()` (10_state.md R40). -/
inductive Event where
  | none
  | keyTransition (k : Key)
  | quit
  deriving DecidableEq, Repr, Inhabited

/-- The inputs sampled by one micro-step (10_state.md R36 to R40). -/
structure Env where
  /-- Wall-clock time in units of `1/U` second (R37). -/
  now : Nat
  /-- The byte of the random source (R38). -/
  rnd : Byte
  /-- Bit `k` is the answer of `is_key_down(k)` (R39). -/
  keys : BitVec 16
  /-- The answer of `poll_events()` (R40). -/
  event : Event
  deriving DecidableEq, Repr, Inhabited

namespace Config

/-- OPEN parameter `SHIFT_QUIRK` (00_scope.md R6, R7). DESIGN CHOICE, safe: a constant without a value, entry 3. -/
opaque shiftQuirk : Bool

/-- OPEN parameter `JUMP_QUIRK` (00_scope.md R6, R7). DESIGN CHOICE, safe: a constant without a value, entry 3. -/
opaque jumpQuirk : Bool

/-- OPEN parameter `ADD_CARRY_QUIRK` (00_scope.md R6, R7). DESIGN CHOICE, safe: a constant without a value, entry 3. -/
opaque addCarryQuirk : Bool

/-- OPEN parameter `INCREMENT_QUIRK` (00_scope.md R6, R7). DESIGN CHOICE, safe: a constant without a value, entry 3. -/
opaque incrementQuirk : Bool

/-- One less than the OPEN positive natural `TIME_UNITS_PER_SECOND` (00_scope.md R6). DESIGN CHOICE, safe: a constant
without a value, entry 4. -/
opaque unitsPerSecondPred : Nat

/-- FREE VALUE: the `n`-th input sample that no driver has supplied (10_state.md R36: the inputs are free).
DESIGN CHOICE, safe: a constant without a value, entry 1. -/
opaque freeEnv : Nat → Env

end Config

end Sys2Proof
end

