-- ==== Sys2Proof/Machine/Params.lean ====
section
/-! DEFINITION. The parameter values a reset takes (00_scope.md R6) and the font (20_memory.md R57 to R59). -/

namespace Sys2Proof.Machine

/-- A font table: 80 bytes, 5 for each glyph 0 to F (20_memory.md R58). -/
abbrev Font := Vector Byte 80

/-- `FONT_BASE` (20_memory.md R57). DESIGN CHOICE of the spec, decision D17, unsafe, entry 6. -/
def fontBase : Nat := 0x050

/-- The conventional `FONT_TABLE`, which R59 offers as the default of the parameter. PRESUMED (general knowledge by the
spec's own words), unsafe, entry 5. -/
def defaultFont : Font :=
  (#v[0xF0, 0x90, 0x90, 0x90, 0xF0, 0x20, 0x60, 0x20, 0x20, 0x70, 0xF0, 0x10, 0xF0, 0x80, 0xF0, 0xF0, 0x10, 0xF0, 0x10, 0xF0]
    : Vector Byte 20)
  ++ (#v[0x90, 0x90, 0xF0, 0x10, 0x10, 0xF0, 0x80, 0xF0, 0x10, 0xF0, 0xF0, 0x80, 0xF0, 0x90, 0xF0, 0xF0, 0x10, 0x20, 0x40, 0x40]
    : Vector Byte 20)
  ++ (#v[0xF0, 0x90, 0xF0, 0x90, 0xF0, 0xF0, 0x90, 0xF0, 0x10, 0xF0, 0xF0, 0x90, 0xF0, 0x90, 0x90, 0xE0, 0x90, 0xE0, 0x90, 0xE0]
    : Vector Byte 20)
  ++ (#v[0xF0, 0x80, 0x80, 0x80, 0xF0, 0xE0, 0x90, 0x90, 0x90, 0xE0, 0xF0, 0x80, 0xF0, 0x80, 0xF0, 0xF0, 0x80, 0xF0, 0x80, 0x80]
    : Vector Byte 20)

/-- The quirk toggles of `State.reset`: the four OPEN parameters (10_state.md R43), entry 3. -/
def resetQuirks : Quirks :=
  ⟨Config.shiftQuirk, Config.jumpQuirk, Config.addCarryQuirk, Config.incrementQuirk⟩

/-- `TIME_UNITS_PER_SECOND` of `State.reset`: the OPEN positive natural (00_scope.md R6), entry 4. -/
def resetUnitsPerSecond : Nat := Config.unitsPerSecondPred + 1

end Sys2Proof.Machine
end

