-- ==== Sys2Proof/Machine/Memory.lean ====
section
/-! DEFINITION. The memory array: sparse, in one canonical form (10_state.md R20, 20_memory.md R50 to R53, R57). -/

namespace Sys2Proof.Machine

/-- `MEM`. Only the bytes that differ from the reset contents are listed, by rising address. -/
structure Memory where
  /-- The font table that every load installs (70_reset_and_hazards.md R253): a construction parameter. -/
  font : Font
  /-- The listed bytes. -/
  cells : List Host.Cell
  deriving DecidableEq, Repr

/-- What an unlisted address reads as: the reset contents without a program, that is the font table at `FONT_BASE` and 0
elsewhere (10_state.md R43, 20_memory.md R57). The 0 is a DESIGN CHOICE of the spec, decision D16, unsafe, entry 7. -/
def Memory.unlisted (font : Font) (a : Nat) : Byte :=
  if h : fontBase ≤ a ∧ a - fontBase < 80 then font[a - fontBase] else 0

/-- The first byte listed for an address. -/
def Memory.lookup : List Host.Cell → Nat → Option Byte
  | [], _ => none
  | (k, b) :: t, a => if k = a then some b else lookup t a

/-- List a byte for an address, keeping the addresses rising. -/
def Memory.insert : List Host.Cell → Nat → Byte → List Host.Cell
  | [], a, b => [(a, b)]
  | (k, c) :: t, a, b =>
    if a < k then (a, b) :: (k, c) :: t
    else if a = k then (a, b) :: t
    else (k, c) :: insert t a b

/-- List no byte for an address. -/
def Memory.erase (cells : List Host.Cell) (a : Nat) : List Host.Cell :=
  cells.filter fun c => c.1 ≠ a

/-- The memory right after a load of no program: nothing listed (10_state.md R43). -/
def Memory.initial (font : Font) : Memory := { font := font, cells := [] }

/-- The byte at an address (20_memory.md R51); above 4095 there is no byte, and every access checks for that first. -/
def Memory.read (m : Memory) (a : Nat) : Byte :=
  (lookup m.cells a).getD (unlisted m.font a)

/-- Store one byte (20_memory.md R53); above 4095 nothing is written, and every access checks for that first. -/
def Memory.write (m : Memory) (a : Nat) (b : Byte) : Memory :=
  if a < 4096 then
    { m with cells := if b = unlisted m.font a then erase m.cells a else insert m.cells a b }
  else m

/-- The bytes at `a`, `a + 1`, …, `a + n - 1` (20_memory.md R61, R62). -/
def Memory.readBytes (m : Memory) (a n : Nat) : List Byte :=
  (List.range n).map fun k => m.read (a + k)

/-- Store a list of bytes at `a`, `a + 1`, …, in ascending order (20_memory.md R61, R62). -/
def Memory.writeBytes (m : Memory) (a : Nat) : List Byte → Memory
  | [] => m
  | b :: bs => (m.write a b).writeBytes (a + 1) bs

/-- The canonical form: addresses rise, lie in memory, and no listed byte equals what the address reads as unlisted. -/
abbrev Memory.wf (m : Memory) : Prop :=
  m.cells.Pairwise (fun p q => p.1 < q.1) ∧
    ∀ c ∈ m.cells, c.1 < 4096 ∧ c.2 ≠ unlisted m.font c.1

end Sys2Proof.Machine
end

