-- ==== Sys2Proof/Machine/State.lean ====
section
/-! DEFINITION. The state of the machine, the ways a step can stop, and the state after reset. -/

namespace Sys2Proof.Machine

/-- A timer: the value last written and the time input of the micro-step that wrote it (10_state.md R30). -/
structure Timer where
  setValue : Byte
  setTime : Nat
  deriving DecidableEq, Repr

/-- The display store: row `r`, column `c`, on or off (10_state.md R33). -/
abbrev Frame := Vector (Vector Bool 64) 32

/-- The display with every pixel off. -/
def Frame.off : Frame := Vector.replicate _ (Vector.replicate _ false)

/-- The kind of a fatal error with the info it is raised with (60_exceptions.md R221, R224, entry 13). -/
inductive FaultCause where
  /-- `DecodeError(a, w)`: the word `w` at `a` is no instruction (30_encoding.md R79). -/
  | decodeError (addr word : Word)
  /-- `StackOverflow()` (40_control_flow.md R103). -/
  | stackOverflow
  /-- `StackUnderflow()` (40_control_flow.md R101). -/
  | stackUnderflow
  /-- `OutOfBounds(a)`: `a` is the lowest address of the access that is outside memory (20_memory.md R52, R55). -/
  | outOfBounds (addr : Nat)
  /-- `InvalidKeyIndex(k)` (44_keypad.md R185). -/
  | invalidKeyIndex (key : Byte)
  deriving DecidableEq, Repr

/-- `RUN` (10_state.md R31). -/
inductive RunState where
  | running
  | waitKey (x : Reg)
  | halted
  | faulted (cause : FaultCause)
  deriving DecidableEq, Repr

/-- A command on the display port (10_state.md R41). -/
inductive DisplayCommand where
  | clear
  | getPixel (row : Fin 32) (col : Fin 64)
  | setPixel (row : Fin 32) (col : Fin 64) (on : Bool)
  | present
  deriving DecidableEq, Repr

/-- Everything the machine holds (10_state.md R20 to R34), and the latest traffic of its ports (R36 to R42). -/
structure State where
  /-- `MEM` (R20). -/
  mem : Memory
  /-- `V[0]` to `V[15]` (R22). -/
  v : Vector Byte 16
  /-- `I` (R25). -/
  i : Word
  /-- `PC` (R26). -/
  pc : Word
  /-- `STACK[0]` to `STACK[15]` (R28). -/
  stack : Vector Word 16
  /-- `SP`, the number of frames, 0 to 16 (R29). -/
  sp : Fin 17
  /-- `DT` (R30). -/
  dt : Timer
  /-- `ST` (R30). -/
  st : Timer
  /-- `FB` (R33). -/
  fb : Frame
  /-- `RUN` (R31). -/
  run : RunState
  /-- `QUIRKS`, fixed for the life of the instance (R32). -/
  quirks : Quirks
  /-- `TIME_UNITS_PER_SECOND`, fixed for the life of the instance (00_scope.md R6). -/
  unitsPerSecond : Nat
  /-- The input sample of the current micro-step (R36). The model's own field, entry 2. -/
  env : Env
  /-- The samples the driver has supplied for coming micro-steps, oldest first (R36, 70_reset_and_hazards.md R265). The
  model's own field, entry 1. -/
  pending : List Env
  /-- How many free samples have been taken. The model's own field, entry 1. -/
  drawn : Nat
  /-- The display commands of the latest micro-step, oldest first (R41). The model's own field, entry 15. -/
  display : List DisplayCommand
  deriving DecidableEq, Repr

/-- The fault report (60_exceptions.md R222): its kind and info are those of `cause`. -/
structure Report where
  /-- The kind, with the info it was raised with. -/
  cause : FaultCause
  /-- The address the faulting instruction was fetched from. -/
  addr : Word
  /-- The instruction word, absent when the fetch itself faulted. -/
  word : Option Word
  deriving DecidableEq, Repr

/-- Why a step answers no next state. A fatal error carries its report and the state the machine is left in, whose `run`
is `faulted` (60_exceptions.md R221, R222). That state is what the spec's own machine holds; a claim that rests on its
registers, memory or display is unsafe (R223, entry 11). -/
inductive Fault where
  /-- Raised by a cycle that fetched an illegal word (30_encoding.md R79). Safe as a stop. -/
  | decodeError (report : Report) (after : State)
  /-- Raised by `2nnn` with 16 frames on the stack (40_control_flow.md R103). Safe as a stop. -/
  | stackOverflow (report : Report) (after : State)
  /-- Raised by `00EE` with no frame on the stack (40_control_flow.md R101). Safe as a stop. -/
  | stackUnderflow (report : Report) (after : State)
  /-- Raised by a fetch, `Dxyn`, `Fx33`, `Fx55` or `Fx65` that would leave memory (60_exceptions.md R227). Safe as a
  stop. -/
  | outOfBounds (report : Report) (after : State)
  /-- Raised by `Ex9E` and `ExA1` with a key number above 15 (44_keypad.md R185). Safe as a stop. -/
  | invalidKeyIndex (report : Report) (after : State)
  /-- Raised by a step from `Halted`, which has no step: the machine is stuck (44_keypad.md R190). Safe. -/
  | noStepHalted
  /-- Raised by a step from `Faulted`, which has no step: the machine is stuck (60_exceptions.md R223). Safe. -/
  | noStepFaulted
  deriving DecidableEq, Repr

/-- Why an instruction has no meaning. -/
inductive Refusal where
  /-- Raised by `exec` for an instruction without a meaning; no arm of this model raises it. Safe. -/
  | notModelled (mnemonic : String)
  deriving DecidableEq, Repr

/-- The outcome of a meaning or a step. -/
abbrev Result := Host.Outcome State Fault Refusal

/-- The state after reset with no program loaded (10_state.md R43, 70_reset_and_hazards.md R255): every field there given
a value by the spec's decision D16 is a DESIGN CHOICE, unsafe, entry 7; the port fields are the model's own, entries 1, 2
and 15. -/
def State.reset : State where
  mem := Memory.initial defaultFont
  v := Vector.replicate 16 0
  i := 0
  pc := BitVec.ofNat 16 0x200
  stack := Vector.replicate 16 0
  sp := 0
  dt := ⟨0, 0⟩
  st := ⟨0, 0⟩
  fb := Frame.off
  run := .running
  quirks := resetQuirks
  unitsPerSecond := resetUnitsPerSecond
  env := ⟨0, 0, 0, .none⟩
  pending := []
  drawn := 0
  display := []

end Sys2Proof.Machine
end

