-- ==== Sys2Proof/Machine/Ops.lean ====
section
/-! DEFINITION. The named operations over registers, the stack, memory, the ports and the run state, and raising a fatal
error. -/

namespace Sys2Proof.Machine

/-! ### Registers -/

/-- `VF`, register 15 (10_state.md R23). -/
def vf : Reg := 15

/-- `V[x]` (00_scope.md R10). -/
def State.getV (s : State) (x : Reg) : Byte := s.v[x.val]

/-- `V[x] <- b` (00_scope.md R10). -/
def State.setV (s : State) (x : Reg) (b : Byte) : State := { s with v := s.v.set x.val b }

/-- Write a result to `V[x]` and then a flag to `VF`, in this order (41_alu.md R121). DESIGN CHOICE of the spec, decision
D6, unsafe, entry 19. -/
def State.setVF (s : State) (x : Reg) (result flag : Byte) : State := (s.setV x result).setV vf flag

/-- `I <- w`. -/
def State.setI (s : State) (w : Word) : State := { s with i := w }

/-- `pc <- w`. -/
def State.setPc (s : State) (w : Word) : State := { s with pc := w }

/-- A skip when `c` holds (40_control_flow.md R100): 2 is added and the skipped word is not looked at. DESIGN
CHOICE of the spec, decision D29, entry 32. -/
def State.skipIf (s : State) (c : Bool) : State := if c then s.setPc (s.pc + 2) else s

/-- Replace `DT` (10_state.md R30). -/
def State.setDt (s : State) (t : Timer) : State := { s with dt := t }

/-- Replace `ST` (10_state.md R30). -/
def State.setSt (s : State) (t : Timer) : State := { s with st := t }

/-- `RUN <- r`. -/
def State.setRun (s : State) (r : RunState) : State := { s with run := r }

/-- Registers `V[0]`, `V[1]`, … take the bytes of a list, in this order (42_index_memory.md R155). -/
def State.setPrefix (s : State) (bytes : List Byte) : State :=
  { s with v := Vector.ofFn fun k : Fin 16 => (bytes[k.val]?).getD s.v[k.val] }

/-- The values of `V[0]` to `V[x]`, in this order (42_index_memory.md R154). -/
def State.getPrefix (s : State) (x : Reg) : List Byte := s.v.toList.take (x.val + 1)

/-! ### The call stack -/

/-- Push `PC` (10_state.md R29, 40_control_flow.md R103); none when 16 frames are on the stack. The stack pointer as a count
is a DESIGN CHOICE of the spec, decision D23, entry 9; what is pushed is its decision D26, entry 31. -/
def State.push (s : State) : Option State :=
  if h : s.sp.val < 16 then
    some { s with stack := s.stack.set s.sp.val s.pc h, sp := ⟨s.sp.val + 1, Nat.succ_lt_succ h⟩ }
  else none

/-- Pop the top frame into `PC`, unchecked (10_state.md R29, 40_control_flow.md R101); none when no frame is on the stack.
Entries 9 and 31. -/
def State.pop (s : State) : Option State :=
  match s.sp with
  | ⟨0, _⟩ => none
  | ⟨k + 1, h⟩ =>
    some { s with
      pc := s.stack[k]'(Nat.lt_of_succ_lt_succ h)
      sp := ⟨k, Nat.lt_of_succ_lt h⟩ }

/-! ### Memory -/

/-- Replace the memory. -/
def State.setMem (s : State) (m : Memory) : State := { s with mem := m }

/-- The range `a`, …, `a + n - 1` lies in memory; an empty range does (20_memory.md R55, 43_display.md R177). -/
def inMemory (a n : Nat) : Bool := decide (n = 0 ∨ a + n ≤ 4096)

/-- The lowest address at or above `a` that is outside memory (20_memory.md R55). -/
def firstOutside (a : Nat) : Nat := max a 4096

/-- Read `n` bytes at `a`, or answer the lowest address that is out of bounds (20_memory.md R51, R54, R55). The whole range
is checked first: DESIGN CHOICE of the spec, decisions D8 and D33, entry 18. -/
def State.load (s : State) (a n : Nat) : Except Nat (List Byte) :=
  if inMemory a n then .ok (s.mem.readBytes a n) else .error (firstOutside a)

/-- Store a list of bytes at `a`, or answer the lowest address that is out of bounds, with nothing written (20_memory.md
R53, R54, R55). DESIGN CHOICE of the spec, decisions D8 and D33, entry 18. -/
def State.store (s : State) (a : Nat) (bytes : List Byte) : Except Nat State :=
  if inMemory a bytes.length then .ok (s.setMem (s.mem.writeBytes a bytes)) else .error (firstOutside a)

/-! ### Ports -/

/-- The sample the next micro-step takes: the oldest one the driver supplied, or a free one (10_state.md R36). DESIGN
CHOICE, safe, entry 1. -/
def State.nextEnv (s : State) : Env :=
  match s.pending with
  | e :: _ => e
  | [] => Config.freeEnv s.drawn

/-- The start of a micro-step: take its input sample (10_state.md R37: one sample per micro-step, with the fetch) and start
an empty record of display commands. The counter advances when the sample was a free one. Entries 1, 2, 15. -/
def State.sample (s : State) : State :=
  { s with
    env := s.nextEnv
    pending := s.pending.tail
    drawn := if s.pending.isEmpty then s.drawn + 1 else s.drawn
    display := [] }

/-- Issue display commands (10_state.md R41). -/
def State.emit (s : State) (cs : List DisplayCommand) : State := { s with display := s.display ++ cs }

/-! ### The display store -/

/-- `get_pixel(r, c)` as a read of `FB` (43_display.md R170). -/
def Frame.get (fb : Frame) (r : Fin 32) (c : Fin 64) : Bool := fb[r.val][c.val]

/-- `set_pixel(r, c, on)` as a write of `FB` (43_display.md R170). -/
def Frame.put (fb : Frame) (r : Fin 32) (c : Fin 64) (on : Bool) : Frame :=
  fb.set r.val (fb[r.val].set c.val on)

/-- Replace `FB`. -/
def State.setFb (s : State) (fb : Frame) : State := { s with fb := fb }

/-! ### Fatal errors -/

/-- The numeric code of a fatal error (60_exceptions.md R224). -/
def FaultCause.code : FaultCause → Nat
  | .decodeError _ _ => 1
  | .stackOverflow => 2
  | .stackUnderflow => 3
  | .outOfBounds _ => 4
  | .invalidKeyIndex _ => 5

/-- The field `info` of the report (60_exceptions.md R222). -/
def FaultCause.info : FaultCause → Option Nat
  | .outOfBounds a => some a
  | .invalidKeyIndex k => some k.toNat
  | .decodeError _ _ | .stackOverflow | .stackUnderflow => none

/-- The fault of a cause, with its report and the state it leaves. -/
def FaultCause.fault (cause : FaultCause) (report : Report) (after : State) : Fault :=
  match cause with
  | .decodeError _ _ => .decodeError report after
  | .stackOverflow => .stackOverflow report after
  | .stackUnderflow => .stackUnderflow report after
  | .outOfBounds _ => .outOfBounds report after
  | .invalidKeyIndex _ => .invalidKeyIndex report after

/-- Taking the machine's only exception, `raise <Kind>(info)` (60_exceptions.md R221, R222, R231): `RUN` becomes `Faulted`,
nothing else changes, there is no handler to go to, and the step's outcome is the fault with its report. There is no
return (R232). -/
def raise (cause : FaultCause) (addr : Word) (word : Option Word) (s : State) : Result :=
  .fault (cause.fault ⟨cause, addr, word⟩ (s.setRun (.faulted cause)))

/-- `raise` within the execution of `i`, where `PC` is already the address after it: the report names the address and the
word of `i` (60_exceptions.md R222, 30_encoding.md R70). DEDUCED, safe, entry 14. -/
def raiseIn (i : Instr) (cause : FaultCause) (s : State) : Result :=
  raise cause (s.pc - 2) (some (encode i)) s

end Sys2Proof.Machine
end

