-- ==== Sys2Proof/Machine/Operands.lean ====
section
/-! DEFINITION. The operand forms of the instructions (30_encoding.md R75). -/

namespace Sys2Proof.Machine

/-- The immediate address, zero-extended to the width of `PC` and `I` (30_encoding.md R75). -/
def immAddress (nnn : Addr12) : Word := nnn.setWidth 16

/-- A register's value zero-extended to 16 bits (42_index_memory.md R151, 40_control_flow.md R107). -/
def wide (b : Byte) : Word := b.setWidth 16

/-- The source of a shift: `Vy` under `SHIFT_QUIRK`, else `Vx` (41_alu.md R130, R132). -/
def State.shiftSource (s : State) (x y : Reg) : Byte := if s.quirks.shift then s.getV y else s.getV x

/-- The register number in the high nibble of an immediate address (30_encoding.md R75). -/
def addressNibble (nnn : Addr12) : Reg := (nnn.extractLsb' 8 4).toFin

/-- The offset of `Bnnn`: the register that the high nibble of `nnn` names under `JUMP_QUIRK`, else `V0` (40_control_flow.md
R107). -/
def State.jumpOffset (s : State) (nnn : Addr12) : Byte :=
  if s.quirks.jump then s.getV (addressNibble nnn) else s.getV 0

/-- The address of a font glyph: `FONT_BASE` plus 5 times the low nibble of the register (42_index_memory.md R152). -/
def glyphAddress (b : Byte) : Word := BitVec.ofNat 16 (fontBase + 5 * (b.toNat % 16))

/-- The three decimal digits of a byte, hundreds first (42_index_memory.md R153). -/
def decimalDigits (b : Byte) : List Byte :=
  [BitVec.ofNat 8 (b.toNat / 100), BitVec.ofNat 8 (b.toNat / 10 % 10), BitVec.ofNat 8 (b.toNat % 10)]

/-- The key a register names; none above 15 (44_keypad.md R185). -/
def keyOf (b : Byte) : Option Key := if h : b.toNat < 16 then some ⟨b.toNat, h⟩ else none

/-- `is_key_down(k)` in this micro-step (10_state.md R39). -/
def State.keyDown (s : State) (k : Key) : Bool := s.env.keys.getLsbD k.val

/-- A key number as a register's value (44_keypad.md R188). -/
def keyByte (k : Key) : Byte := BitVec.ofNat 8 k.val

/-- `I` advanced past `n` bytes under `INCREMENT_QUIRK` (42_index_memory.md R154, R155). -/
def State.advanceI (s : State) (n : Nat) : State :=
  if s.quirks.increment then s.setI (s.i + BitVec.ofNat 16 n) else s

end Sys2Proof.Machine
end

