-- ==== Sys2Proof/Machine/Flags.lean ====
section
/-! DEFINITION. What `VF`, the machine's one flag, becomes (10_state.md R23, 41_alu.md R134). -/

namespace Sys2Proof.Machine

/-- A flag value as the content of `VF`. -/
def flagByte (b : Bool) : Byte := if b then 1 else 0

/-- Carry out of an addition, from the exact sum (41_alu.md R128). -/
def carryFlag (a b : Byte) : Byte := flagByte (decide (a.toNat + b.toNat > 255))

/-- No borrow in `a - b` (41_alu.md R129, R131). -/
def noBorrowFlag (a b : Byte) : Byte := flagByte (decide (a.toNat ≥ b.toNat))

/-- The bit that a right shift shifts out (41_alu.md R130). -/
def lowBitFlag (b : Byte) : Byte := flagByte (b.getLsbD 0)

/-- The bit that a left shift shifts out (41_alu.md R132). -/
def highBitFlag (b : Byte) : Byte := flagByte (b.getLsbD 7)

/-- The exact sum of `I` and a register passes 0x0FFF (42_index_memory.md R151). -/
def indexPasses (i : Word) (b : Byte) : Bool := decide (i.toNat + b.toNat > 0x0FFF)

end Sys2Proof.Machine
end

