-- ==== Sys2Proof/Machine/Alu.lean ====
section
/-! DEFINITION. Register loads, arithmetic, logic, shifts and the random instruction (41_alu.md). -/

namespace Sys2Proof.Machine

/-- `6xkk` (R122). -/
def execLdVxKk (x : Reg) (kk : Byte) (s : State) : Result := .next (s.setV x kk)

/-- `7xkk` (R123): no flag. -/
def execAddVxKk (x : Reg) (kk : Byte) (s : State) : Result := .next (s.setV x (s.getV x + kk))

/-- `8xy0` (R124). -/
def execLdVxVy (x y : Reg) (s : State) : Result := .next (s.setV x (s.getV y))

/-- `8xy1` (R125): no flag, entry 34. -/
def execOr (x y : Reg) (s : State) : Result := .next (s.setV x (s.getV x ||| s.getV y))

/-- `8xy2` (R126): no flag, entry 34. -/
def execAnd (x y : Reg) (s : State) : Result := .next (s.setV x (s.getV x &&& s.getV y))

/-- `8xy3` (R127): no flag, entry 34. -/
def execXor (x y : Reg) (s : State) : Result := .next (s.setV x (s.getV x ^^^ s.getV y))

/-- `8xy4` (R128). -/
def execAddVxVy (x y : Reg) (s : State) : Result :=
  .next (s.setVF x (s.getV x + s.getV y) (carryFlag (s.getV x) (s.getV y)))

/-- `8xy5` (R129): the flag compares the operands, not the result, entry 35. -/
def execSub (x y : Reg) (s : State) : Result :=
  .next (s.setVF x (s.getV x - s.getV y) (noBorrowFlag (s.getV x) (s.getV y)))

/-- `8xy6` (R130). -/
def execShr (x y : Reg) (s : State) : Result :=
  .next (s.setVF x (s.shiftSource x y >>> 1) (lowBitFlag (s.shiftSource x y)))

/-- `8xy7` (R131). -/
def execSubn (x y : Reg) (s : State) : Result :=
  .next (s.setVF x (s.getV y - s.getV x) (noBorrowFlag (s.getV y) (s.getV x)))

/-- `8xyE` (R132). -/
def execShl (x y : Reg) (s : State) : Result :=
  .next (s.setVF x (s.shiftSource x y <<< 1) (highBitFlag (s.shiftSource x y)))

/-- `Cxkk` (R133): the byte is the input `rnd` of this micro-step. -/
def execRnd (x : Reg) (kk : Byte) (s : State) : Result := .next (s.setV x (s.env.rnd &&& kk))

end Sys2Proof.Machine
end

