-- ==== Sys2Proof/Machine/Control.lean ====
section
/-! DEFINITION. The control-transfer instructions (40_control_flow.md). `PC` already holds the address of the following
word. -/

namespace Sys2Proof.Machine

/-- `00EE` (R101). -/
def execRet (s : State) : Result :=
  match s.pop with
  | some t => .next t
  | none => raiseIn .ret .stackUnderflow s

/-- `1nnn` (R102). -/
def execJp (nnn : Addr12) (s : State) : Result := .next (s.setPc (immAddress nnn))

/-- `2nnn` (R103). -/
def execCall (nnn : Addr12) (s : State) : Result :=
  match s.push with
  | some t => .next (t.setPc (immAddress nnn))
  | none => raiseIn (.call nnn) .stackOverflow s

/-- `3xkk` (R104). -/
def execSeVxKk (x : Reg) (kk : Byte) (s : State) : Result := .next (s.skipIf (s.getV x == kk))

/-- `4xkk` (R105). -/
def execSneVxKk (x : Reg) (kk : Byte) (s : State) : Result := .next (s.skipIf (s.getV x != kk))

/-- `5xy0` (R106). -/
def execSeVxVy (x y : Reg) (s : State) : Result := .next (s.skipIf (s.getV x == s.getV y))

/-- `9xy0` (R108). -/
def execSneVxVy (x y : Reg) (s : State) : Result := .next (s.skipIf (s.getV x != s.getV y))

/-- `Bnnn` (R107): the sum is not reduced to 12 bits. DESIGN CHOICE of the spec, decision D27, entry 27. -/
def execJpV0Nnn (nnn : Addr12) (s : State) : Result :=
  .next (s.setPc (immAddress nnn + wide (s.jumpOffset nnn)))

end Sys2Proof.Machine
end

