-- ==== Sys2Proof/Machine/Display.lean ====
section
/-! DEFINITION. The display instructions and the sprite draw (43_display.md). -/

namespace Sys2Proof.Machine

/-- A place on the display. -/
abbrev Place := Fin 32 × Fin 64

/-- The places that one sprite row toggles, leftmost first: the set bits of `b`, bit 7 at column `x0`, as far as row `y`
and the column are on the display (43_display.md R172, R173, R175). -/
def rowPlaces (x0 y : Nat) (b : Byte) : List Place :=
  (List.range 8).filterMap fun c =>
    if h : y < 32 ∧ x0 + c < 64 then
      if b.getLsbD (7 - c) then some (⟨y, h.1⟩, ⟨x0 + c, h.2⟩) else none
    else none

/-- The places that a sprite toggles, top row first (43_display.md R172, R173, R175). -/
def spritePlaces (x0 y0 : Nat) : List Byte → List Place
  | [] => []
  | b :: bs => rowPlaces x0 y0 b ++ spritePlaces x0 (y0 + 1) bs

/-- A draw under way: the display store, the collision flag and the commands issued so far. -/
structure Drawing where
  fb : Frame
  flag : Bool
  commands : List DisplayCommand
  deriving DecidableEq, Repr

/-- Toggle one place; turning an on pixel off sets the flag (43_display.md R172, R173, R174). -/
def Drawing.toggle (d : Drawing) (p : Place) : Drawing :=
  let old := d.fb.get p.1 p.2
  { fb := d.fb.put p.1 p.2 (!old)
    flag := d.flag || old
    commands := d.commands ++ [.getPixel p.1 p.2, .setPixel p.1 p.2 (!old)] }

/-- Toggle places one after another, the flag starting at 0 (43_display.md R172). The start at 0 is a DESIGN CHOICE of the
spec, decision D11, entry 22. -/
def drawPlaces (fb : Frame) (places : List Place) : Drawing :=
  places.foldl Drawing.toggle { fb := fb, flag := false, commands := [] }

/-- The column of the sprite's left edge (43_display.md R172, R175). -/
def State.drawColumn (s : State) (x : Reg) : Nat := (s.getV x).toNat % 64

/-- The row of the sprite's top edge (43_display.md R172, R175). -/
def State.drawRow (s : State) (y : Reg) : Nat := (s.getV y).toNat % 32

/-- The end of a draw: the pixels, the flag in `VF`, and the one `present()` after them (43_display.md R172, R178). -/
def State.finishDraw (s : State) (d : Drawing) : State :=
  ((s.setFb d.fb).setV vf (flagByte d.flag)).emit (d.commands ++ [.present])

/-- `00E0` (R171): `clear()` and no `present()`. DESIGN CHOICE of the spec, decision D22, entry 16. -/
def execCls (s : State) : Result := .next ((s.setFb Frame.off).emit [.clear])

/-- `Dxyn` (R172). -/
def execDrw (x y : Reg) (n : Nat) (s : State) : Result :=
  match s.load s.i.toNat n with
  | .ok sprite => .next (s.finishDraw (drawPlaces s.fb (spritePlaces (s.drawColumn x) (s.drawRow y) sprite)))
  | .error a => raiseIn (.drw x y n) (.outOfBounds a) s

end Sys2Proof.Machine
end

