-- ==== Sys2Proof/Machine/Index.lean ====
section
/-! DEFINITION. The index-register and memory instructions (42_index_memory.md). -/

namespace Sys2Proof.Machine

/-- `Annn` (R150). -/
def execLdINnn (nnn : Addr12) (s : State) : Result := .next (s.setI (immAddress nnn))

/-- `Fx1E` (R151): `I` wraps modulo 65536 only, the flag looks at the exact sum and is never cleared. DESIGN CHOICE of the
spec, decision D9, entry 20. -/
def execAddIVx (x : Reg) (s : State) : Result :=
  let t := s.setI (s.i + wide (s.getV x))
  .next (if s.quirks.addCarry && indexPasses s.i (s.getV x) then t.setV vf 1 else t)

/-- `Fx29` (R152). -/
def execLdFVx (x : Reg) (s : State) : Result := .next (s.setI (glyphAddress (s.getV x)))

/-- `Fx33` (R153). -/
def execLdBVx (x : Reg) (s : State) : Result :=
  match s.store s.i.toNat (decimalDigits (s.getV x)) with
  | .ok t => .next t
  | .error a => raiseIn (.ldBVx x) (.outOfBounds a) s

/-- `Fx55` (R154). -/
def execLdMemVx (x : Reg) (s : State) : Result :=
  match s.store s.i.toNat (s.getPrefix x) with
  | .ok t => .next (t.advanceI (x.val + 1))
  | .error a => raiseIn (.ldMemVx x) (.outOfBounds a) s

/-- `Fx65` (R155). -/
def execLdVxMem (x : Reg) (s : State) : Result :=
  match s.load s.i.toNat (x.val + 1) with
  | .ok bytes => .next ((s.setPrefix bytes).advanceI (x.val + 1))
  | .error a => raiseIn (.ldVxMem x) (.outOfBounds a) s

end Sys2Proof.Machine
end

