-- ==== Sys2Proof/Machine/Keypad.lean ====
section
/-! DEFINITION. The keypad instructions and the polls of a key wait (44_keypad.md). -/

namespace Sys2Proof.Machine

/-- `Ex9E` (R186). A key number above 15 is a fault by R185: DESIGN CHOICE of the spec, decision D12, entry 23. -/
def execSkp (x : Reg) (s : State) : Result :=
  match keyOf (s.getV x) with
  | some k => .next (s.skipIf (s.keyDown k))
  | none => raiseIn (.skp x) (.invalidKeyIndex (s.getV x)) s

/-- `ExA1` (R187). A key number above 15 is a fault by R185: DESIGN CHOICE of the spec, decision D12, entry 23. -/
def execSknp (x : Reg) (s : State) : Result :=
  match keyOf (s.getV x) with
  | some k => .next (s.skipIf (!s.keyDown k))
  | none => raiseIn (.sknp x) (.invalidKeyIndex (s.getV x)) s

/-- `Fx0A` (R188): the cycle that fetches it only enters the wait. -/
def execLdVxK (x : Reg) (s : State) : Result := .next (s.setRun (.waitKey x))

/-- One poll of a key wait (R188, R190). -/
def poll (x : Reg) (s : State) : Result :=
  match s.env.event with
  | .none => .next s
  | .keyTransition k => .next ((s.setV x (keyByte k)).setRun .running)
  | .quit => .next (s.setRun .halted)

end Sys2Proof.Machine
end

