-- ==== Sys2Proof/Machine/Timers.lean ====
section
/-! DEFINITION. The timer decay and the timer instructions (45_timers.md). -/

namespace Sys2Proof.Machine

/-- Whole ticks of 1/60 second in `e` units of `1/u` second (R201). DESIGN CHOICE of the spec, decision D4, entry 24. -/
def ticks (u e : Nat) : Nat := e * 60 / u

/-- Time elapsed since `t0`, 0 for a clock that went backwards (R202). The clamp is a DESIGN CHOICE of the spec, decision
D5, entry 25. -/
def elapsed (t t0 : Nat) : Nat := if t ≥ t0 then t - t0 else 0

/-- The displayed value of a timer at time `t`, floored at 0 (R202). -/
def Timer.displayed (timer : Timer) (u t : Nat) : Nat :=
  timer.setValue.toNat - ticks u (elapsed t timer.setTime)

/-- `DTval(t)` (R202). -/
def State.dtVal (s : State) (t : Nat) : Nat := s.dt.displayed s.unitsPerSecond t

/-- `STval(t)`, which only the outside observer reads (R202, R208, 10_state.md R42). -/
def State.stVal (s : State) (t : Nat) : Nat := s.st.displayed s.unitsPerSecond t

/-- `Fx07` (R203). -/
def execLdVxDt (x : Reg) (s : State) : Result := .next (s.setV x (BitVec.ofNat 8 (s.dtVal s.env.now)))

/-- `Fx15` (R204): the time is recorded whatever the value, entry 36. -/
def execLdDtVx (x : Reg) (s : State) : Result := .next (s.setDt ⟨s.getV x, s.env.now⟩)

/-- `Fx18` (R205): the time is recorded whatever the value, entry 36. -/
def execLdStVx (x : Reg) (s : State) : Result := .next (s.setSt ⟨s.getV x, s.env.now⟩)

end Sys2Proof.Machine
end

