-- ==== Sys2Proof/Machine/Cycle.lean ====
section
/-! DEFINITION. The fetch and the fetch-decode-execute cycle (30_encoding.md R70, R71), the outcome a step reports
(60_exceptions.md R222), and where an instruction is placed to be fetched next. -/

namespace Sys2Proof.Machine

/-- The word at an address, odd or even, or the lowest address that is out of bounds (20_memory.md R52, R56). The absence of
an alignment rule and of any protected region are DESIGN CHOICES of the spec, decisions D7 and D19, entries 17 and 33. -/
def Memory.readWord (m : Memory) (a : Nat) : Except Nat Word :=
  if a + 1 < 4096 then .ok (joinBytes (m.read a) (m.read (a + 1)))
  else .error (if 4096 ≤ a then a else a + 1)

/-- One cycle: fetch at `PC`, advance `PC` by 2, decode, execute (30_encoding.md R70, R71, R79). That a fetch fault
excludes the others and a decode error those of the instruction is a DESIGN CHOICE of the spec, decision D32, entry 37. -/
def cycle (s : State) : Result :=
  match s.mem.readWord s.pc.toNat with
  | .error a => raise (.outOfBounds a) s.pc none s
  | .ok w =>
    match decodeWord w with
    | .error _ => raise (.decodeError s.pc w) s.pc (some w) (s.setPc (s.pc + 2))
    | .ok i => exec i (s.setPc (s.pc + 2))

/-- The outcome of a micro-step (60_exceptions.md R222). -/
inductive StepOutcome where
  | ok
  | waiting
  | halt
  | fault (report : Report)
  deriving DecidableEq, Repr

/-- The report of a fatal error; a stuck machine reports nothing. -/
def Fault.report : Fault → Option Report
  | .decodeError r _ | .stackOverflow r _ | .stackUnderflow r _ | .outOfBounds r _ | .invalidKeyIndex r _ => some r
  | .noStepHalted | .noStepFaulted => none

/-- The state a fatal error leaves; a stuck machine made no step. -/
def Fault.after : Fault → Option State
  | .decodeError _ t | .stackOverflow _ t | .stackUnderflow _ t | .outOfBounds _ t | .invalidKeyIndex _ t => some t
  | .noStepHalted | .noStepFaulted => none

/-- The outcome the core reports for a step (60_exceptions.md R222); none where there is no step. -/
def stepOutcome : Result → Option StepOutcome
  | .next t =>
    match t.run with
    | .running => some .ok
    | .waitKey _ => some .waiting
    | .halted => some .halt
    | .faulted _ => none
  | .fault f => f.report.map .fault
  | .refused _ => none

/-- The numeric code in a report (60_exceptions.md R222, R224). -/
def Report.code (r : Report) : Nat := r.cause.code

/-- The info in a report (60_exceptions.md R222). -/
def Report.info (r : Report) : Option Nat := r.cause.info

/-- `s` with a word stored where the next fetch reads it: at `PC`, or at the program base where no word fits at `PC`, in
run state `Running` (20_memory.md R61). The model's own operation, entry 40. -/
def State.placeWord (s : State) (w : Word) : State :=
  let a := if s.pc.toNat + 1 < 4096 then s.pc else BitVec.ofNat 16 0x200
  ((s.setPc a).setMem (s.mem.writeBytes a.toNat [highByte w, lowByte w])).setRun .running

end Sys2Proof.Machine
end

