-- ==== Sys2Proof/Machine/Load.lean ====
section
/-! DEFINITION. Reset with its arguments: the configuration and the program image (70_reset_and_hazards.md R250 to R255). -/

namespace Sys2Proof.Machine

/-- `MAX_PROGRAM_BYTES` (00_scope.md R6). -/
def maxProgramBytes : Nat := 4096 - 0x200

/-- The state after a reset with the given quirks, time resolution, font table and program image (R255); none for an image
that does not fit, which the loader refuses (R252), and for a time resolution of 0, which is no parameter (00_scope.md R6).
The refusal is a DESIGN CHOICE of the spec, decision D18, entry 10. -/
def boot (quirks : Quirks) (unitsPerSecond : Nat) (font : Font) (image : List Byte) : Option State :=
  if image.length ≤ maxProgramBytes ∧ 0 < unitsPerSecond then
    some { State.reset with
      quirks := quirks
      unitsPerSecond := unitsPerSecond
      mem := (Memory.initial font).writeBytes 0x200 image }
  else none

end Sys2Proof.Machine
end

