-- ==== Sys2Proof/Machine/Step.lean ====
section
/-! DEFINITION. One micro-step (10_state.md R31), and the host's placing of an instruction. -/

namespace Sys2Proof.Machine

/-- One micro-step: a cycle in `Running`, a poll in `WaitKey(x)`, and no step from `Halted` and `Faulted` (10_state.md
R31). -/
def step (s : State) : Host.Outcome State Fault Refusal :=
  match s.run with
  | .running => cycle s.sample
  | .waitKey x => poll x s.sample
  | .halted => .fault .noStepHalted
  | .faulted _ => .fault .noStepFaulted

/-- `s` with the instruction of bits `w` stored where the next step fetches it. Every instruction is 16 bits wide, so
`nbits` adds nothing. This stands for the load of a program from outside, entry 10. -/
def State.withFetchWord (s : State) (_nbits w : Nat) : State := s.placeWord (BitVec.ofNat 16 w)

end Sys2Proof.Machine
end

