-- ==== Sys2Proof/Safety.lean ====
section
/-! DEFINITION. What claims are stated in: the invariant of the machine, safe runs, the end of a run, and the parts of the
state that an instruction keeps. -/

namespace Sys2Proof.Machine

/-- Every live frame holds the address after some call, 2 to 0x1000 (40_control_flow.md R101). -/
def State.framesInRange (s : State) : Prop :=
  ∀ k : Fin 16, k.val < s.sp.val → 2 ≤ s.stack[k.val].toNat ∧ s.stack[k.val].toNat ≤ 0x1000

/-- The invariant of the machine: memory is in its canonical form, `PC` never exceeds 0x10FE (10_state.md R27), the live
frames are in range, and the time resolution is positive (00_scope.md R6). -/
def State.Inv (s : State) : Prop :=
  s.mem.wf ∧ s.pc.toNat ≤ 0x10FE ∧ s.framesInRange ∧ 0 < s.unitsPerSecond

/-- `n` micro-steps from `s` meet no fault (70_reset_and_hazards.md R262). -/
def safeFor (n : Nat) (s : State) : Prop := ∃ t, Sys2Proof.core.run n s = .next t

/-- The harness's end of a run: the next instruction is a jump to its own address (70_reset_and_hazards.md R262). -/
def State.atSelfJump (s : State) : Prop :=
  s.run = .running ∧ ∃ w nnn, s.mem.readWord s.pc.toNat = .ok w ∧ decodeWord w = .ok (.jp nnn) ∧ s.pc = immAddress nnn

/-- The bit of a sprite with its left edge at column `x0` and its top edge at row `y0` that falls on row `r`, column `c`;
off where the sprite has no such bit (43_display.md R173, R175). -/
def spriteBit (sprite : List Byte) (x0 y0 r c : Nat) : Bool :=
  decide (y0 ≤ r ∧ x0 ≤ c ∧ c < x0 + 8) && ((sprite[r - y0]?).getD 0).getLsbD (7 - (c - x0))

/-- The display commands for one sprite bit that falls on row `r`, column `c`: none for a bit that is off or off the display,
else a read of the pixel and a write of its opposite (43_display.md R172, R175). -/
def toggleCommands (fb : Frame) (bit : Bool) (r c : Nat) : List DisplayCommand :=
  if h : bit = true ∧ r < 32 ∧ c < 64 then
    [.getPixel ⟨r, h.2.1⟩ ⟨c, h.2.2⟩, .setPixel ⟨r, h.2.1⟩ ⟨c, h.2.2⟩ (!fb.get ⟨r, h.2.1⟩ ⟨c, h.2.2⟩)]
  else []

/-! ### What an instruction keeps -/

/-- Every register but those of `p` reads as before. -/
def SameRegsBut (p : Reg → Prop) (s t : State) : Prop := ∀ r, ¬ p r → t.getV r = s.getV r

/-- Every register reads as before. -/
def SameRegs (s t : State) : Prop := ∀ r, t.getV r = s.getV r

/-- Every byte of memory reads as before. -/
def SameMemory (s t : State) : Prop := ∀ a, t.mem.read a = s.mem.read a

/-- The stack pointer and every slot are as before. -/
def SameStack (s t : State) : Prop := t.sp = s.sp ∧ t.stack = s.stack

/-- Both timer pairs are as before. -/
def SameTimers (s t : State) : Prop := t.dt = s.dt ∧ t.st = s.st

/-- Every pixel is as before and no display command was issued. -/
def SameDisplay (s t : State) : Prop := (∀ r c, t.fb.get r c = s.fb.get r c) ∧ t.display = s.display

/-- The configuration, the input sample, the supplied samples and the count of free samples are as before: what no
instruction changes. -/
def SameInstance (s t : State) : Prop :=
  t.quirks = s.quirks ∧ t.unitsPerSecond = s.unitsPerSecond ∧ t.mem.font = s.mem.font ∧
    t.env = s.env ∧ t.pending = s.pending ∧ t.drawn = s.drawn

/-- The stack, the timers, the run state and the instance are as before. -/
def SameRest (s t : State) : Prop :=
  SameStack s t ∧ SameTimers s t ∧ t.run = s.run ∧ SameInstance s t

/-- Nothing changes but registers of `p`. -/
def OnlyRegs (p : Reg → Prop) (s t : State) : Prop :=
  SameRegsBut p s t ∧ t.i = s.i ∧ t.pc = s.pc ∧ SameMemory s t ∧ SameDisplay s t ∧ SameRest s t

/-- Nothing changes but `PC`. -/
def OnlyPc (s t : State) : Prop :=
  SameRegs s t ∧ t.i = s.i ∧ SameMemory s t ∧ SameDisplay s t ∧ SameRest s t

/-- Nothing changes but `I`, registers of `p`, and bytes of memory at addresses of `q`. -/
def OnlyIndexRegsMemory (p : Reg → Prop) (q : Nat → Prop) (s t : State) : Prop :=
  SameRegsBut p s t ∧ (∀ a, ¬ q a → t.mem.read a = s.mem.read a) ∧ t.pc = s.pc ∧ SameDisplay s t ∧ SameRest s t

/-! ### Which instructions do what -/

/-- The fatal error that an instruction raises in a state (60_exceptions.md R224). -/
def faultCause (i : Instr) (s : State) : Option FaultCause :=
  match i with
  | .ret => if s.sp.val = 0 then some .stackUnderflow else none
  | .call _ => if s.sp.val = 16 then some .stackOverflow else none
  | .drw _ _ n =>
    if n > 0 ∧ s.i.toNat + n - 1 > 4095 then some (.outOfBounds (max s.i.toNat 4096)) else none
  | .ldBVx _ => if s.i.toNat + 2 > 4095 then some (.outOfBounds (max s.i.toNat 4096)) else none
  | .ldMemVx x | .ldVxMem x =>
    if s.i.toNat + x.val > 4095 then some (.outOfBounds (max s.i.toNat 4096)) else none
  | .skp x | .sknp x => if (s.getV x).toNat > 15 then some (.invalidKeyIndex (s.getV x)) else none
  | .cls | .jp _ | .seVxKk _ _ | .sneVxKk _ _ | .seVxVy _ _ | .ldVxKk _ _ | .addVxKk _ _ | .ldVxVy _ _ | .orVxVy _ _
  | .andVxVy _ _ | .xorVxVy _ _ | .addVxVy _ _ | .subVxVy _ _ | .shrVxVy _ _ | .subnVxVy _ _ | .shlVxVy _ _
  | .sneVxVy _ _ | .ldINnn _ | .jpV0Nnn _ | .rndVxKk _ _ | .ldVxDt _ | .ldVxK _ | .ldDtVx _ | .ldStVx _ | .addIVx _
  | .ldFVx _ => none

/-- The instructions that write `VF`, as a side effect or as the register they name as destination (10_state.md R23).
`Fx0A` names a destination that only its last poll writes. -/
def writesVF : Instr → Bool
  | .addVxVy _ _ | .subVxVy _ _ | .shrVxVy _ _ | .subnVxVy _ _ | .shlVxVy _ _ | .drw _ _ _ | .addIVx _ => true
  | .ldVxKk x _ | .addVxKk x _ | .rndVxKk x _ | .ldVxVy x _ | .orVxVy x _ | .andVxVy x _ | .xorVxVy x _ | .ldVxDt x
  | .ldVxMem x => x == vf
  | .cls | .ret | .jp _ | .call _ | .seVxKk _ _ | .sneVxKk _ _ | .seVxVy _ _ | .sneVxVy _ _ | .ldINnn _ | .jpV0Nnn _
  | .skp _ | .sknp _ | .ldVxK _ | .ldDtVx _ | .ldStVx _ | .ldFVx _ | .ldBVx _ | .ldMemVx _ => false

/-- The instructions that write `I` (10_state.md R25). -/
def writesIndex : Instr → Bool
  | .ldINnn _ | .addIVx _ | .ldFVx _ | .ldMemVx _ | .ldVxMem _ => true
  | .cls | .ret | .jp _ | .call _ | .seVxKk _ _ | .sneVxKk _ _ | .seVxVy _ _ | .ldVxKk _ _ | .addVxKk _ _ | .ldVxVy _ _
  | .orVxVy _ _ | .andVxVy _ _ | .xorVxVy _ _ | .addVxVy _ _ | .subVxVy _ _ | .shrVxVy _ _ | .subnVxVy _ _
  | .shlVxVy _ _ | .sneVxVy _ _ | .jpV0Nnn _ | .rndVxKk _ _ | .drw _ _ _ | .skp _ | .sknp _ | .ldVxDt _ | .ldVxK _
  | .ldDtVx _ | .ldStVx _ | .ldBVx _ => false

/-- The instructions whose effect a quirk selects (10_state.md R32). -/
def quirkDependent : Instr → Bool
  | .shrVxVy _ _ | .shlVxVy _ _ | .jpV0Nnn _ | .addIVx _ | .ldMemVx _ | .ldVxMem _ => true
  | .cls | .ret | .jp _ | .call _ | .seVxKk _ _ | .sneVxKk _ _ | .seVxVy _ _ | .ldVxKk _ _ | .addVxKk _ _ | .ldVxVy _ _
  | .orVxVy _ _ | .andVxVy _ _ | .xorVxVy _ _ | .addVxVy _ _ | .subVxVy _ _ | .subnVxVy _ _ | .sneVxVy _ _ | .ldINnn _
  | .rndVxKk _ _ | .drw _ _ _ | .skp _ | .sknp _ | .ldVxDt _ | .ldVxK _ | .ldDtVx _ | .ldStVx _ | .ldFVx _
  | .ldBVx _ => false

/-- The instructions that read the clock, the random byte or the keys (10_state.md R37 to R40): two samples that agree on
what the instruction reads. No instruction reads the event. -/
def agreeFor (i : Instr) (e e' : Env) : Prop :=
  match i with
  | .rndVxKk _ _ => e.rnd = e'.rnd
  | .skp _ | .sknp _ => e.keys = e'.keys
  | .ldVxDt _ | .ldDtVx _ | .ldStVx _ => e.now = e'.now
  | .cls | .ret | .jp _ | .call _ | .seVxKk _ _ | .sneVxKk _ _ | .seVxVy _ _ | .ldVxKk _ _ | .addVxKk _ _ | .ldVxVy _ _
  | .orVxVy _ _ | .andVxVy _ _ | .xorVxVy _ _ | .addVxVy _ _ | .subVxVy _ _ | .shrVxVy _ _ | .subnVxVy _ _
  | .shlVxVy _ _ | .sneVxVy _ _ | .ldINnn _ | .jpV0Nnn _ | .drw _ _ _ | .ldVxK _ | .addIVx _ | .ldFVx _ | .ldBVx _
  | .ldMemVx _ | .ldVxMem _ => True

/-- The state with another input sample in this micro-step. -/
def State.withEnv (s : State) (e : Env) : State := { s with env := e }

/-- The state of an instance with other quirks. -/
def State.withQuirks (s : State) (q : Quirks) : State := { s with quirks := q }

end Sys2Proof.Machine
end

