-- ==== Sys2Proof/Certificates/Slice0/Obligations.lean ====
section
/-! DEFINITION. The statements about the machine. In every statement about `exec i s` the state `s` is the one after the
fetch: its `pc` is the address of the word after the instruction (30_encoding.md R71). -/

open Sys2Proof Sys2Proof.Machine

/-! ### Encoding -/

/-- 30_encoding.md R73, R74, R76, R78: no bit of an encoding is dropped. -/
def Obligations.DecodingAnEncodedInstructionGivesItBack : Prop :=
  ∀ i : Instr, wellFormed i = true → decodeWord (encode i) = .ok i

/-- 30_encoding.md R76, R78: each word has one meaning. That a decoded word is the encoding on every printed digit is the spec's
decision D10 (entry 21). -/
def Obligations.EncodingADecodedWordGivesItBack : Prop :=
  ∀ (w : Word) (i : Instr), decodeWord w = .ok i → wellFormed i = true ∧ encode i = w

/-- 30_encoding.md R76: a word is an instruction exactly when it agrees with that instruction's row under its mask, and it
agrees with no other row. That the printed constant digits are matched exactly is the spec's decision D10 (entry 21). -/
def Obligations.AWordIsAnInstructionExactlyWhenItMatchesItsRow : Prop :=
  (∀ w i, decodeWord w = .ok i → maskMatch i ∈ opcodeRows ∧ w &&& (maskMatch i).1 = (maskMatch i).2) ∧
  (∀ w, ∀ row ∈ opcodeRows, w &&& row.1 = row.2 → ∃ i, decodeWord w = .ok i ∧ maskMatch i = row) ∧
  (∀ w, ∀ row ∈ opcodeRows, ∀ row' ∈ opcodeRows, w &&& row.1 = row.2 → w &&& row'.1 = row'.2 → row = row')

/-- Words written out from the column "encoding" of the opcode table (30_encoding.md R78), one or more of each format, and
illegal words of 30_encoding.md R79. That 0x5121, and every `0nnn` but two, is illegal is the spec's decision D10 (entry 21). -/
def Obligations.SpecWordsDecodeToTheirInstructions : Prop :=
  decodeWord 0x00E0 = .ok .cls ∧ decodeWord 0x1204 = .ok (.jp 0x204) ∧ decodeWord 0x4308 = .ok (.sneVxKk 3 0x08) ∧
  decodeWord 0x5120 = .ok (.seVxVy 1 2) ∧ decodeWord 0x8126 = .ok (.shrVxVy 1 2) ∧
  decodeWord 0xDFE5 = .ok (.drw 15 14 5) ∧ decodeWord 0xE3A1 = .ok (.sknp 3) ∧ decodeWord 0xF265 = .ok (.ldVxMem 2) ∧
  decodeWord 0x0000 = .error (.illegal0 0x0000) ∧ decodeWord 0x5121 = .error (.illegal5 0x5121) ∧
  decodeWord 0x812F = .error (.illegal8 0x812F)

/-! ### The micro-step -/

/-- 30_encoding.md R70, R84: where the word at `PC` decodes to `i`, the step is `exec` of `i` on the state that has taken its
input sample and whose `PC` has moved past the word. The second part says all that taking the sample does: the fields it
changes, and the free sample, are the model's own holding of the inputs and of the display commands (entries 1, 2, 15). -/
def Obligations.AStepRunsTheDecodedInstruction : Prop :=
  (∀ (s : State) (i : Instr), s.run = .running → s.pc.toNat + 1 < 4096 →
    decodeWord (joinBytes (s.mem.read s.pc.toNat) (s.mem.read (s.pc.toNat + 1))) = .ok i →
      step s = exec i (s.sample.setPc (s.pc + 2))) ∧
  (∀ s : State, s.sample =
    { s with
      env := match s.pending with
        | e :: _ => e
        | [] => Config.freeEnv s.drawn
      pending := s.pending.tail
      drawn := if s.pending.isEmpty then s.drawn + 1 else s.drawn
      display := [] })

/-- 30_encoding.md R71: two bytes, big-endian, `PC` advanced by 2; a fetch that would leave memory faults, with the first
address outside memory, no word in the report, and `PC` not advanced. The address and the absent word of the report are the
spec's decision D14 (entry 26), and the state that the fault carries is held to it by entry 11. -/
def Obligations.TheFetchReadsTwoBytesOrFaults : Prop :=
  ∀ s : State, s.run = .running →
    (s.pc.toNat + 1 ≤ 4095 → ∀ i : Instr,
      decodeWord (BitVec.ofNat 16 ((s.mem.read s.pc.toNat).toNat * 256 + (s.mem.read (s.pc.toNat + 1)).toNat)) = .ok i →
        step s = exec i (s.sample.setPc (BitVec.ofNat 16 (s.pc.toNat + 2)))) ∧
    (s.pc.toNat + 1 > 4095 → ∃ t : State, t.pc = s.pc ∧
      step s = .fault (.outOfBounds
        ⟨.outOfBounds (if s.pc.toNat > 4095 then s.pc.toNat else s.pc.toNat + 1), s.pc, none⟩ t))

/-- 30_encoding.md R79, 60_exceptions.md R222, R225: an illegal word is a fatal decode error, reported with code 1, the
address of the word and the word, `PC` already advanced. That the reported address is the word's own and the code 1 are the
spec's decisions D14 and D15 (entry 26), which words are illegal is its decision D10 (entry 21), and the state left is that of
its own machine (entry 11). The word 0x0000 is illegal. -/
def Obligations.AnIllegalWordIsADecodeError : Prop :=
  (∀ (s : State) (w : Word) (e : Reject), s.run = .running → s.pc.toNat + 1 < 4096 →
    joinBytes (s.mem.read s.pc.toNat) (s.mem.read (s.pc.toNat + 1)) = w → decodeWord w = .error e →
      ∃ (r : Report) (t : State), step s = .fault (.decodeError r t) ∧
        r.code = 1 ∧ r.addr = s.pc ∧ r.word = some w ∧
        t.run = .faulted (.decodeError s.pc w) ∧ t.pc = s.pc + 2) ∧
  decodeWord 0x0000 = .error (.illegal0 0x0000)

/-- 10_state.md R31, 44_keypad.md R190, 60_exceptions.md R223: the two terminal run states have no step. The run states are the
spec's decisions D2 and D14 (entries 29, 11), and how the model says that a machine is stuck is its own choice (entry 12). -/
def Obligations.HaltedAndFaultedHaveNoStep : Prop :=
  ∀ s : State,
    (s.run = .halted → step s = .fault .noStepHalted) ∧
    (∀ c, s.run = .faulted c → step s = .fault .noStepFaulted)

/-- 44_keypad.md R188, R190: one poll of a key wait, for each answer of the input; it issues no display command. The division of
the wait into polls is the spec's decision D2 and that any reported key completes it its decision D13 (entry 29); the record of
display commands is the model's own (entry 15). -/
def Obligations.APollFollowsTheReportedEvent : Prop :=
  ∀ (s : State) (x : Reg), s.run = .waitKey x →
    (s.nextEnv.event = .none → ∃ t, step s = .next t ∧ t.run = .waitKey x ∧
      SameRegs s t ∧ t.i = s.i ∧ t.pc = s.pc ∧ SameMemory s t ∧ SameStack s t ∧ SameTimers s t ∧ t.fb = s.fb ∧
      t.display = []) ∧
    (∀ k : Key, s.nextEnv.event = .keyTransition k → ∃ t, step s = .next t ∧ t.run = .running ∧
      (t.getV x).toNat = k.val ∧ SameRegsBut (· = x) s t ∧ t.i = s.i ∧ t.pc = s.pc ∧ SameMemory s t ∧ SameStack s t ∧
      SameTimers s t ∧ t.fb = s.fb ∧ t.display = []) ∧
    (s.nextEnv.event = .quit → ∃ t, step s = .next t ∧ t.run = .halted ∧
      SameRegs s t ∧ t.i = s.i ∧ t.pc = s.pc ∧ SameMemory s t ∧ SameStack s t ∧ SameTimers s t ∧ t.fb = s.fb ∧
      t.display = [])

/-- 60_exceptions.md R222: a micro-step from `Running` or `WaitKey` reports `Ok`, `Waiting`, `Halt` or a fault with its
report, as its run state says; it is never refused. The contents of the report are the spec's decision D14 (entry 26), and the
run states its decision D2 (entry 29). -/
def Obligations.EveryMicroStepReportsItsOutcome : Prop :=
  ∀ s : State, (s.run = .running ∨ ∃ x, s.run = .waitKey x) →
    (∃ t, step s = .next t ∧ t.run = .running ∧ stepOutcome (step s) = some .ok) ∨
    (∃ t x, step s = .next t ∧ t.run = .waitKey x ∧ stepOutcome (step s) = some .waiting) ∨
    (∃ t, step s = .next t ∧ t.run = .halted ∧ stepOutcome (step s) = some .halt) ∨
    (∃ f r t, step s = .fault f ∧ f.report = some r ∧ f.after = some t ∧ t.run = .faulted r.cause ∧
      stepOutcome (step s) = some (.fault r))

/-- 10_state.md R36, R37: every micro-step takes exactly one input sample, the oldest the driver supplied, or a free one; no
instruction changes it. How the samples are held is the model's own choice (entries 1, 2). -/
def Obligations.EveryMicroStepTakesOneSample : Prop :=
  ∀ s t : State, step s = .next t →
    (∀ e rest, s.pending = e :: rest → t.env = e ∧ t.pending = rest ∧ t.drawn = s.drawn) ∧
    (s.pending = [] → t.env = Config.freeEnv s.drawn ∧ t.pending = [] ∧ t.drawn = s.drawn + 1)

/-! ### The invariant -/

/-- The state after reset meets the invariant. The canonical form is the model's own; `PC` after reset is deduced (entry 8), the
stack pointer is a count (entry 9), and the time resolution is the open parameter (entry 4). -/
def Obligations.ResetMeetsTheInvariant : Prop := State.reset.Inv

/-- Every step keeps the invariant: the memory's canonical form, which is the model's own, `PC` at most 0x10FE (10_state.md R27),
live frames in 2 to 0x1000 (40_control_flow.md R101), a positive time resolution (00_scope.md R6). The frames rest on the spec's
decisions D23 and D26 (entries 9, 31), the bound of `PC` on its decision D27 (entry 27). -/
def Obligations.EveryStepKeepsTheInvariant : Prop :=
  ∀ s t : State, s.Inv → step s = .next t → t.Inv

/-- 00_scope.md R7, 10_state.md R32, 70_reset_and_hazards.md R254: the quirks, and with them the time resolution and the font
table, are constant for a whole run. That they are fields of the state is the model's choice (entries 3, 4, 5). -/
def Obligations.TheConfigurationIsConstant : Prop :=
  ∀ s t : State, step s = .next t →
    t.quirks = s.quirks ∧ t.unitsPerSecond = s.unitsPerSecond ∧ t.mem.font = s.mem.font

/-- 70_reset_and_hazards.md R262: the step of a jump to its own address changes nothing but the input sample, the supplied
samples, the count of free samples and the record of display commands, which are the model's own fields (entries 1, 2, 15).
That such a jump is an ordinary step, and only the harness's mark for the end of a run, is the spec's decision D30 (entry
42). -/
def Obligations.ASelfJumpChangesOnlyTheSampleAndTheDisplayRecord : Prop :=
  ∀ s : State, s.atSelfJump → step s = .next s.sample ∧ s.sample.atSelfJump

/-! ### Faults -/

/-- 60_exceptions.md R221, R224, R230, R231: an instruction raises exactly the fault of its row, reported with the
instruction's address and word, and leaves everything but `RUN` as the fetch left it; otherwise it completes. These are the
spec's decisions: that an address is never masked and that the check comes before any effect, D8 and D33 (entry 18); the whole
source range and `n` = 0 of `Dxyn`, D11 (entry 22); the kind InvalidKeyIndex, D12 (entry 23); what the report holds, D14 and
D15 (entries 26, 14); the stack pointer as a count, D23 (entry 9); one condition at most, D32 (entry 37). What the fault leaves
is that of the spec's own machine (entry 11). -/
def Obligations.AnInstructionFaultsExactlyAsTheTableSays : Prop :=
  ∀ (i : Instr) (s : State),
    (∀ c, faultCause i s = some c →
      exec i s = .fault (c.fault ⟨c, s.pc - 2, some (encode i)⟩ (s.setRun (.faulted c)))) ∧
    (faultCause i s = none → ∃ t, exec i s = .next t)

/-! ### Control transfer -/

/-- 40_control_flow.md R101, `00EE`. That the stack pointer counts the frames is the spec's decision D23 (entry 9), and that the
popped value is not checked its decision D26 (entry 31). The report and the state left by the fault are its decision
D14 (entries 26, 14, 11). -/
def Obligations.ReturnPopsTheNewestFrame : Prop :=
  ∀ s : State,
    (∀ k : Fin 16, s.sp.val = k.val + 1 → ∃ t, exec .ret s = .next t ∧
      t.pc = s.stack[k.val] ∧ t.sp.val = k.val ∧ t.stack = s.stack ∧
      SameRegs s t ∧ t.i = s.i ∧ SameMemory s t ∧ SameDisplay s t ∧ SameTimers s t ∧ t.run = s.run ∧ SameInstance s t) ∧
    (s.sp.val = 0 → ∃ t, exec .ret s = .fault (.stackUnderflow ⟨.stackUnderflow, s.pc - 2, some 0x00EE⟩ t) ∧
      t.sp = s.sp ∧ t.stack = s.stack ∧ SameRegs s t ∧ t.run = .faulted .stackUnderflow)

/-- 40_control_flow.md R102, `1nnn`. -/
def Obligations.JumpLoadsItsTarget : Prop :=
  ∀ (s : State) (nnn : Addr12), ∃ t, exec (.jp nnn) s = .next t ∧ t.pc.toNat = nnn.toNat ∧ OnlyPc s t

/-- 40_control_flow.md R103, `2nnn`. That the stack pointer counts the frames is the spec's decision D23 (entry 9), and that the
pushed value is the `PC` after the fetch its decision D26 (entry 31). The report and the state left by the fault are its decision
D14 (entries 26, 14, 11). -/
def Obligations.CallPushesTheAddressAfterIt : Prop :=
  ∀ (s : State) (nnn : Addr12),
    (∀ k : Fin 16, s.sp.val = k.val → ∃ t, exec (.call nnn) s = .next t ∧
      t.stack[k.val] = s.pc ∧ (∀ j : Fin 16, j ≠ k → t.stack[j.val] = s.stack[j.val]) ∧ t.sp.val = k.val + 1 ∧
      t.pc.toNat = nnn.toNat ∧
      SameRegs s t ∧ t.i = s.i ∧ SameMemory s t ∧ SameDisplay s t ∧ SameTimers s t ∧ t.run = s.run ∧ SameInstance s t) ∧
    (s.sp.val = 16 → ∃ t,
      exec (.call nnn) s = .fault (.stackOverflow ⟨.stackOverflow, s.pc - 2, some (encode (.call nnn))⟩ t) ∧
      t.sp = s.sp ∧ t.stack = s.stack ∧ t.pc = s.pc ∧ t.run = .faulted .stackOverflow)

/-- 40_control_flow.md R103 (corner cases): a return after a call, with the stack as the call left it, resumes at the word
after the call with the stack as deep as before. That the call pushes that address is the spec's decision D26 (entry 31). -/
def Obligations.ReturnAfterCallResumesAfterTheCall : Prop :=
  ∀ (s t u : State) (nnn : Addr12), exec (.call nnn) s = .next t → u.sp = t.sp → u.stack = t.stack →
    ∃ v, exec .ret u = .next v ∧ v.pc = s.pc ∧ v.sp = s.sp

/-- 40_control_flow.md R104, R105, `3xkk` and `4xkk`. -/
def Obligations.ImmediateSkipsCompareWithTheByte : Prop :=
  ∀ (s : State) (x : Reg) (kk : Byte),
    (∃ t, exec (.seVxKk x kk) s = .next t ∧ t.pc = (if s.getV x = kk then s.pc + 2 else s.pc) ∧ OnlyPc s t) ∧
    (∃ t, exec (.sneVxKk x kk) s = .next t ∧ t.pc = (if s.getV x ≠ kk then s.pc + 2 else s.pc) ∧ OnlyPc s t)

/-- 40_control_flow.md R106, R108, `5xy0` and `9xy0`. -/
def Obligations.RegisterSkipsCompareTwoRegisters : Prop :=
  ∀ (s : State) (x y : Reg),
    (∃ t, exec (.seVxVy x y) s = .next t ∧ t.pc = (if s.getV x = s.getV y then s.pc + 2 else s.pc) ∧ OnlyPc s t) ∧
    (∃ t, exec (.sneVxVy x y) s = .next t ∧ t.pc = (if s.getV x ≠ s.getV y then s.pc + 2 else s.pc) ∧ OnlyPc s t)

/-- 40_control_flow.md R107, `Bnnn`: the register is `V0`, or under `JUMP_QUIRK` the one that the high nibble of `nnn` names.
That the sum is not reduced to 12 bits is the spec's decision D27 (entry 27). -/
def Obligations.OffsetJumpAddsTheSelectedRegister : Prop :=
  ∀ (s : State) (nnn : Addr12), ∃ t, exec (.jpV0Nnn nnn) s = .next t ∧ OnlyPc s t ∧
    (s.quirks.jump = false → t.pc.toNat = nnn.toNat + (s.getV 0).toNat) ∧
    (∀ x : Reg, s.quirks.jump = true → x.val = nnn.toNat / 256 → t.pc.toNat = nnn.toNat + (s.getV x).toNat)

/-! ### Registers and arithmetic -/

/-- 41_alu.md R122, R124, `6xkk` and `8xy0`. -/
def Obligations.LoadsWriteTheDestinationRegister : Prop :=
  ∀ (s : State) (x y : Reg) (kk : Byte),
    (∃ t, exec (.ldVxKk x kk) s = .next t ∧ t.getV x = kk ∧ OnlyRegs (· = x) s t) ∧
    (∃ t, exec (.ldVxVy x y) s = .next t ∧ t.getV x = s.getV y ∧ OnlyRegs (· = x) s t)

/-- 41_alu.md R123, `7xkk`: modulo 256, `VF` only as the named destination. -/
def Obligations.AddImmediateWrapsAndSetsNoFlag : Prop :=
  ∀ (s : State) (x : Reg) (kk : Byte), ∃ t, exec (.addVxKk x kk) s = .next t ∧
    (t.getV x).toNat = ((s.getV x).toNat + kk.toNat) % 256 ∧ OnlyRegs (· = x) s t

/-- 41_alu.md R125, R126, R127, `8xy1`, `8xy2`, `8xy3`, bit by bit. That they set no flag is inferred from the silence of the
source's rows (entry 34). -/
def Obligations.LogicWorksBitByBitAndSetsNoFlag : Prop :=
  ∀ (s : State) (x y : Reg),
    (∃ t, exec (.orVxVy x y) s = .next t ∧ OnlyRegs (· = x) s t ∧
      ∀ k < 8, (t.getV x).getLsbD k = ((s.getV x).getLsbD k || (s.getV y).getLsbD k)) ∧
    (∃ t, exec (.andVxVy x y) s = .next t ∧ OnlyRegs (· = x) s t ∧
      ∀ k < 8, (t.getV x).getLsbD k = ((s.getV x).getLsbD k && (s.getV y).getLsbD k)) ∧
    (∃ t, exec (.xorVxVy x y) s = .next t ∧ OnlyRegs (· = x) s t ∧
      ∀ k < 8, (t.getV x).getLsbD k = ((s.getV x).getLsbD k ^^ (s.getV y).getLsbD k))

/-- 41_alu.md R128, R134, `8xy4`, for every choice of registers. That the flag stays where `x` is 0xF is the spec's decision
D6 (entry 19). -/
def Obligations.AddSetsTheCarryFlag : Prop :=
  ∀ (s : State) (x y : Reg), ∃ t, exec (.addVxVy x y) s = .next t ∧
    (x ≠ vf → (t.getV x).toNat = ((s.getV x).toNat + (s.getV y).toNat) % 256) ∧
    (t.getV vf).toNat = (if (s.getV x).toNat + (s.getV y).toNat > 255 then 1 else 0) ∧
    OnlyRegs (fun r => r = x ∨ r = vf) s t

/-- 41_alu.md R129, R131, R134, `8xy5` and `8xy7`, for every choice of registers. That the flag stays where `x` is 0xF is the
spec's decision D6 (entry 19). -/
def Obligations.SubtractionsSetTheNoBorrowFlag : Prop :=
  ∀ (s : State) (x y : Reg),
    (∃ t, exec (.subVxVy x y) s = .next t ∧
      (x ≠ vf → (t.getV x).toNat = ((s.getV x).toNat + 256 - (s.getV y).toNat) % 256) ∧
      (t.getV vf).toNat = (if (s.getV x).toNat ≥ (s.getV y).toNat then 1 else 0) ∧
      OnlyRegs (fun r => r = x ∨ r = vf) s t) ∧
    (∃ t, exec (.subnVxVy x y) s = .next t ∧
      (x ≠ vf → (t.getV x).toNat = ((s.getV y).toNat + 256 - (s.getV x).toNat) % 256) ∧
      (t.getV vf).toNat = (if (s.getV y).toNat ≥ (s.getV x).toNat then 1 else 0) ∧
      OnlyRegs (fun r => r = x ∨ r = vf) s t)

/-- 41_alu.md R130, R132, R134, `8xy6` and `8xyE`, for every choice of registers and both settings of `SHIFT_QUIRK`. That the
flag stays where `x` is 0xF is the spec's decision D6 (entry 19). -/
def Obligations.ShiftsMoveOneBitIntoTheFlag : Prop :=
  ∀ (s : State) (x y : Reg) (b : Byte), b = (if s.quirks.shift then s.getV y else s.getV x) →
    (∃ t, exec (.shrVxVy x y) s = .next t ∧
      (x ≠ vf → (t.getV x).toNat = b.toNat / 2) ∧ (t.getV vf).toNat = b.toNat % 2 ∧
      OnlyRegs (fun r => r = x ∨ r = vf) s t) ∧
    (∃ t, exec (.shlVxVy x y) s = .next t ∧
      (x ≠ vf → (t.getV x).toNat = 2 * b.toNat % 256) ∧ (t.getV vf).toNat = b.toNat / 128 ∧
      OnlyRegs (fun r => r = x ∨ r = vf) s t)

/-- 41_alu.md R133, `Cxkk`: the random byte of the micro-step, masked; it holds for every byte (the spec's decision D21, entry
1). -/
def Obligations.RandomByteIsMasked : Prop :=
  ∀ (s : State) (x : Reg) (kk : Byte), ∃ t, exec (.rndVxKk x kk) s = .next t ∧
    (∀ k < 8, (t.getV x).getLsbD k = (s.env.rnd.getLsbD k && kk.getLsbD k)) ∧
    t.getV x &&& ~~~kk = 0 ∧ OnlyRegs (· = x) s t

/-- 10_state.md R23: no instruction changes `VF` but those listed there, and those that name it as their destination. -/
def Obligations.OnlyTheListedInstructionsWriteVF : Prop :=
  ∀ (i : Instr) (s t : State), exec i s = .next t → writesVF i = false → t.getV vf = s.getV vf

/-! ### Index register and memory -/

/-- 42_index_memory.md R150, `Annn`. -/
def Obligations.LoadIndexSetsTheAddress : Prop :=
  ∀ (s : State) (nnn : Addr12), ∃ t, exec (.ldINnn nnn) s = .next t ∧ t.i.toNat = nnn.toNat ∧
    OnlyIndexRegsMemory (fun _ => False) (fun _ => False) s t

/-- 42_index_memory.md R151, `Fx1E`. That `I` wraps at 65536 only, that the exact sum is compared and that `VF` is never
cleared is the spec's decision D9 (entry 20). -/
def Obligations.AddToIndexWrapsAt65536 : Prop :=
  ∀ (s : State) (x : Reg), ∃ t, exec (.addIVx x) s = .next t ∧
    t.i.toNat = (s.i.toNat + (s.getV x).toNat) % 65536 ∧
    t.getV vf =
      (if s.quirks.addCarry = true ∧ s.i.toNat + (s.getV x).toNat > 0x0FFF then 1 else s.getV vf) ∧
    OnlyIndexRegsMemory (· = vf) (fun _ => False) s t

/-- 42_index_memory.md R152, `Fx29`. That the font base is 0x050 is the spec's decision D17 (entry 6). -/
def Obligations.GlyphAddressUsesTheLowNibble : Prop :=
  ∀ (s : State) (x : Reg), ∃ t, exec (.ldFVx x) s = .next t ∧
    t.i.toNat = 0x050 + 5 * ((s.getV x).toNat % 16) ∧
    OnlyIndexRegsMemory (fun _ => False) (fun _ => False) s t

/-- 42_index_memory.md R153, `Fx33`, where the three bytes lie in memory: hundreds, tens and ones at `I`, `I + 1`, `I + 2`,
and nothing else. Where they do not, `AnInstructionFaultsExactlyAsTheTableSays` says what happens. -/
def Obligations.DecimalDigitsAreStoredAtTheIndex : Prop :=
  ∀ (s : State) (x : Reg), s.i.toNat + 2 ≤ 4095 → ∃ t, exec (.ldBVx x) s = .next t ∧
    (t.mem.read s.i.toNat).toNat = (s.getV x).toNat / 100 ∧
    (t.mem.read (s.i.toNat + 1)).toNat = (s.getV x).toNat / 10 % 10 ∧
    (t.mem.read (s.i.toNat + 2)).toNat = (s.getV x).toNat % 10 ∧ t.i = s.i ∧
    OnlyIndexRegsMemory (fun _ => False) (fun a => s.i.toNat ≤ a ∧ a ≤ s.i.toNat + 2) s t

/-- 42_index_memory.md R154, `Fx55`, where the bytes lie in memory: `V[k]` at `I + k` for `k` up to `x`, nothing else, and `I`
advanced by `x + 1` under `INCREMENT_QUIRK` only. The amount is the spec's decision D28 (entry 28). -/
def Obligations.BulkStoreWritesThePrefix : Prop :=
  ∀ (s : State) (x : Reg), s.i.toNat + x.val ≤ 4095 → ∃ t, exec (.ldMemVx x) s = .next t ∧
    (∀ k : Reg, k ≤ x → t.mem.read (s.i.toNat + k.val) = s.getV k) ∧
    t.i.toNat = (if s.quirks.increment then s.i.toNat + x.val + 1 else s.i.toNat) ∧
    OnlyIndexRegsMemory (fun _ => False) (fun a => s.i.toNat ≤ a ∧ a ≤ s.i.toNat + x.val) s t

/-- 42_index_memory.md R155, `Fx65`, where the bytes lie in memory: `V[k]` from `I + k` for `k` up to `x`, no other register,
and `I` advanced by `x + 1` under `INCREMENT_QUIRK` only. The amount is the spec's decision D28 (entry 28). -/
def Obligations.BulkLoadReadsThePrefix : Prop :=
  ∀ (s : State) (x : Reg), s.i.toNat + x.val ≤ 4095 → ∃ t, exec (.ldVxMem x) s = .next t ∧
    (∀ k : Reg, k ≤ x → t.getV k = s.mem.read (s.i.toNat + k.val)) ∧
    t.i.toNat = (if s.quirks.increment then s.i.toNat + x.val + 1 else s.i.toNat) ∧
    OnlyIndexRegsMemory (· ≤ x) (fun _ => False) s t

/-- 42_index_memory.md R157: `Fx55` and then `Fx65`, with the same `x` and the same `I` and the memory as the store left it,
restores `V[0]` to `V[x]`, whatever the registers held in between. -/
def Obligations.StoreThenLoadRestoresTheRegisters : Prop :=
  ∀ (s t u : State) (x : Reg), exec (.ldMemVx x) s = .next t → u.mem = t.mem → u.i = s.i →
    ∃ v, exec (.ldVxMem x) u = .next v ∧ ∀ k : Reg, k ≤ x → v.getV k = s.getV k

/-- 10_state.md R25: no instruction but those listed there writes `I`. -/
def Obligations.OnlyTheListedInstructionsWriteTheIndex : Prop :=
  ∀ (i : Instr) (s t : State), exec i s = .next t → writesIndex i = false → t.i = s.i

/-- 20_memory.md R51, R53: reading and writing one byte through the machine's range operations. That an address above 4095 is an
error and never masked is the spec's decision D8 (entry 18), and that no address below is protected its decision D19 (entry
33). -/
def Obligations.OneByteIsReadAndWritten : Prop :=
  ∀ (s : State) (a : Nat) (b : Byte),
    (a ≤ 4095 → s.load a 1 = .ok [s.mem.read a] ∧
      ∃ t, s.store a [b] = .ok t ∧ t.mem.read a = b ∧ (∀ a', a' ≠ a → t.mem.read a' = s.mem.read a') ∧
        SameRegs s t ∧ t.i = s.i ∧ t.pc = s.pc ∧ SameDisplay s t ∧ SameRest s t) ∧
    (a > 4095 → s.load a 1 = .error a ∧ s.store a [b] = .error a)

/-- 20_memory.md R65: a word that a bulk store has just written is the word a fetch reads there. That nothing stands between
is the spec's decision D25 (entry 30). -/
def Obligations.AStoreIsSeenByTheNextFetch : Prop :=
  ∀ (s t : State) (x k : Reg), exec (.ldMemVx x) s = .next t → k < x → ∀ k' : Reg, k'.val = k.val + 1 →
    t.mem.readWord (s.i.toNat + k.val) = .ok (joinBytes (s.getV k) (s.getV k'))

/-- 10_state.md R21: the stores of `Fx33` and `Fx55` are the only ones. -/
def Obligations.OnlyTwoInstructionsStore : Prop :=
  ∀ (i : Instr) (s t : State), exec i s = .next t → (∀ x, i ≠ .ldBVx x) → (∀ x, i ≠ .ldMemVx x) → t.mem = s.mem

/-- 10_state.md R28: only `2nnn` writes a slot of the stack, and besides it only `00EE` moves the stack pointer. -/
def Obligations.OnlyCallWritesTheStack : Prop :=
  ∀ (i : Instr) (s t : State), exec i s = .next t → (∀ nnn, i ≠ .call nnn) →
    t.stack = s.stack ∧ (i ≠ .ret → t.sp = s.sp)

/-! ### Display -/

/-- 43_display.md R171, `00E0`: every pixel off, the one command `clear()`. That it issues no `present()` is the spec's
decision D22 (entry 16). -/
def Obligations.ClearTurnsEveryPixelOff : Prop :=
  ∀ s : State, ∃ t, exec .cls s = .next t ∧ (∀ r c, t.fb.get r c = false) ∧ t.display = s.display ++ [.clear] ∧
    SameRegs s t ∧ t.i = s.i ∧ t.pc = s.pc ∧ SameMemory s t ∧ SameRest s t

/-- 43_display.md R172 to R175, R177, `Dxyn`, where the sprite lies in memory or is empty: each pixel becomes its exclusive or
with the sprite bit that falls on it, `VF` tells whether a pixel was turned off, and nothing else changes. That `VF` becomes 0
without a collision is the spec's decision D11 (entry 22). -/
def Obligations.DrawTogglesTheSpriteBits : Prop :=
  ∀ (s : State) (x y : Reg) (n : Nat), n = 0 ∨ s.i.toNat + n - 1 ≤ 4095 →
    ∀ bit : Nat → Nat → Bool,
      bit = spriteBit (s.mem.readBytes s.i.toNat n) ((s.getV x).toNat % 64) ((s.getV y).toNat % 32) →
    ∃ t, exec (.drw x y n) s = .next t ∧
      (∀ (r : Fin 32) (c : Fin 64), t.fb.get r c = (s.fb.get r c ^^ bit r.val c.val)) ∧
      ((∃ (r : Fin 32) (c : Fin 64), s.fb.get r c = true ∧ bit r.val c.val = true) → t.getV vf = 1) ∧
      ((¬ ∃ (r : Fin 32) (c : Fin 64), s.fb.get r c = true ∧ bit r.val c.val = true) → t.getV vf = 0) ∧
      SameRegsBut (· = vf) s t ∧ t.i = s.i ∧ t.pc = s.pc ∧ SameMemory s t ∧ SameRest s t

/-- 10_state.md R41, 43_display.md R172, R173, R175, `Dxyn`, where the sprite lies in memory or is empty: row by row from the
top, and in each row from bit 7 on, each sprite bit that is on and falls on the display issues a `get_pixel` of its place and
a `set_pixel` of the opposite of what the place held before the draw; then comes `present()`, and there is no other command. The
record of commands is the model's own (entry 15), the order is that of the pseudocode of R172, the column from `Vx` and the row
from `Vy` is the spec's decision D22 (entry 16), and the empty draw its decision D11 (entry 22). -/
def Obligations.DrawIssuesItsPixelCommandsInOrder : Prop :=
  ∀ (s : State) (x y : Reg) (n : Nat), n = 0 ∨ s.i.toNat + n - 1 ≤ 4095 →
    ∀ x0 y0 : Nat, x0 = (s.getV x).toNat % 64 → y0 = (s.getV y).toNat % 32 →
    ∃ t, exec (.drw x y n) s = .next t ∧
      t.display = s.display
        ++ ((List.range n).flatMap fun r => (List.range 8).flatMap fun c =>
            toggleCommands s.fb ((s.mem.read (s.i.toNat + r)).getLsbD (7 - c)) (y0 + r) (x0 + c))
        ++ [.present]

/-- 43_display.md R178: every `Dxyn` that does not fault issues `present()` exactly once, as its last command, and no other
instruction issues it. That `00E0` does not is the spec's decision D22 (entry 16), that an empty draw does its decision D11
(entry 22); the record of commands is the model's own (entry 15). -/
def Obligations.OnlyDrawPresentsAndExactlyOnce : Prop :=
  ∀ (i : Instr) (s t : State), exec i s = .next t → ∃ cs, t.display = s.display ++ cs ∧
    (∀ x y n, i = .drw x y n → cs.count .present = 1 ∧ cs.getLast? = some .present) ∧
    ((∀ x y n, i ≠ .drw x y n) → DisplayCommand.present ∉ cs)

/-- 43_display.md R179: two identical draws restore every pixel, where neither register is `VF`; and where the first meets no
pixel that is on and the sprite shows at all, the first sets `VF` to 0 and the second to 1. That `VF` becomes 0 without a
collision is the spec's decision D11 (entry 22), and that the store keeps its pixels its decision D22 (entry 16). -/
def Obligations.DrawingTwiceRestoresTheDisplay : Prop :=
  ∀ (s t : State) (x y : Reg) (n : Nat), x ≠ vf → y ≠ vf → exec (.drw x y n) s = .next t →
    ∀ bit : Nat → Nat → Bool,
      bit = spriteBit (s.mem.readBytes s.i.toNat n) ((s.getV x).toNat % 64) ((s.getV y).toNat % 32) →
    ∃ u, exec (.drw x y n) t = .next u ∧ u.fb = s.fb ∧
      ((∀ (r : Fin 32) (c : Fin 64), bit r.val c.val = true → s.fb.get r c = false) →
        (∃ (r : Fin 32) (c : Fin 64), bit r.val c.val = true) → t.getV vf = 0 ∧ u.getV vf = 1)

/-- 10_state.md R33, 43_display.md R170: no instruction but `00E0` and `Dxyn` changes a pixel or issues a display command. -/
def Obligations.OnlyDisplayInstructionsChangeThePixels : Prop :=
  ∀ (i : Instr) (s t : State), exec i s = .next t → i ≠ .cls → (∀ x y n, i ≠ .drw x y n) →
    t.fb = s.fb ∧ t.display = s.display

/-! ### Keypad -/

/-- 44_keypad.md R186, R187, `Ex9E` and `ExA1`, for a key number up to 15: each skips on its own state of the key, so exactly
one of the two does. For a larger number `AnInstructionFaultsExactlyAsTheTableSays` says what happens. -/
def Obligations.KeySkipsFollowTheKeyState : Prop :=
  ∀ (s : State) (x : Reg), (s.getV x).toNat ≤ 15 →
    (∃ t, exec (.skp x) s = .next t ∧ OnlyPc s t ∧
      t.pc = (if s.env.keys.getLsbD (s.getV x).toNat = true then s.pc + 2 else s.pc)) ∧
    (∃ t, exec (.sknp x) s = .next t ∧ OnlyPc s t ∧
      t.pc = (if s.env.keys.getLsbD (s.getV x).toNat = true then s.pc else s.pc + 2))

/-- 44_keypad.md R188, `Fx0A`: the cycle that fetches it only enters the wait. That the wait is a run state of its own is the
spec's decision D2 (entry 29). -/
def Obligations.KeyWaitIsEntered : Prop :=
  ∀ (s : State) (x : Reg), ∃ t, exec (.ldVxK x) s = .next t ∧ t.run = .waitKey x ∧
    SameRegs s t ∧ t.i = s.i ∧ t.pc = s.pc ∧ SameMemory s t ∧ SameDisplay s t ∧ SameStack s t ∧ SameTimers s t ∧
    SameInstance s t

/-! ### Timers -/

/-- 45_timers.md R203, R202, `Fx07`: the displayed value at the time of the micro-step, that is the set value less the whole
ticks since the set time, floored at 0. That one time sample serves the whole micro-step is the spec's decision D3 (entry 2),
the exact tick its decision D4 (entry 24), and no time elapsed on a clock that went backwards its decision D5 (entry 25). -/
def Obligations.DelayTimerIsReadAtTheTimeOfTheStep : Prop :=
  ∀ (s : State) (x : Reg), ∃ t, exec (.ldVxDt x) s = .next t ∧ (t.getV x).toNat = s.dtVal s.env.now ∧
    (s.dt.setTime ≤ s.env.now →
      (t.getV x).toNat = s.dt.setValue.toNat - (s.env.now - s.dt.setTime) * 60 / s.unitsPerSecond) ∧
    (s.env.now < s.dt.setTime → t.getV x = s.dt.setValue) ∧
    OnlyRegs (· = x) s t

/-- 45_timers.md R204, R205, R209, `Fx15` and `Fx18`: the whole pair is replaced, and the other timer is not touched. That the time
is recorded at any value, also at 0, is how the spec settles a conflict of the source (entry 36); one time sample for a
micro-step is its decision D3 (entry 2). -/
def Obligations.SettingATimerReplacesItsPair : Prop :=
  ∀ (s : State) (x : Reg),
    (∃ t, exec (.ldDtVx x) s = .next t ∧ t.dt.setValue = s.getV x ∧ t.dt.setTime = s.env.now ∧ t.st = s.st ∧
      SameRegs s t ∧ t.i = s.i ∧ t.pc = s.pc ∧ SameMemory s t ∧ SameDisplay s t ∧ SameStack s t ∧ t.run = s.run ∧
      SameInstance s t) ∧
    (∃ t, exec (.ldStVx x) s = .next t ∧ t.st.setValue = s.getV x ∧ t.st.setTime = s.env.now ∧ t.dt = s.dt ∧
      SameRegs s t ∧ t.i = s.i ∧ t.pc = s.pc ∧ SameMemory s t ∧ SameDisplay s t ∧ SameStack s t ∧ t.run = s.run ∧
      SameInstance s t)

/-- 10_state.md R30: no other instruction writes a timer. -/
def Obligations.OnlyTheirInstructionsSetTheTimers : Prop :=
  ∀ (i : Instr) (s t : State), exec i s = .next t →
    ((∀ x, i ≠ .ldDtVx x) → t.dt = s.dt) ∧ ((∀ x, i ≠ .ldStVx x) → t.st = s.st)

/-- 45_timers.md R202, R208: `DTval` and `STval`, for every resolution `U`: the set value less the whole ticks since the set
time, floored at 0; it never exceeds the set value, never rises with time, is the set value up to the set time, and is 0 from
`setTime + ceil(setValue * U / 60)` on. That a time before the set time counts as no time elapsed is the spec's decision D5
(entry 25), and that a tick is exactly 1/60 second its decision D4 (entry 24). -/
def Obligations.ADisplayedTimerDecaysToZero : Prop :=
  ∀ (s : State) (d : Timer) (val : Nat → Nat), 0 < s.unitsPerSecond →
    (d = s.dt ∧ val = s.dtVal) ∨ (d = s.st ∧ val = s.stVal) →
    (∀ t, d.setTime ≤ t → val t = d.setValue.toNat - (t - d.setTime) * 60 / s.unitsPerSecond) ∧
    (∀ t, val t ≤ d.setValue.toNat) ∧
    (∀ t t', t ≤ t' → val t' ≤ val t) ∧
    (∀ t, t ≤ d.setTime → val t = d.setValue.toNat) ∧
    (∀ t, d.setTime + (d.setValue.toNat * s.unitsPerSecond + 59) / 60 ≤ t → val t = 0)

/-- 45_timers.md R202, R205, R208, R210, for every resolution `U`: `e` units after `Fx15` the delay timer, and after `Fx18` the
sound timer, displays the set value less the `e * 60 div U` whole ticks, floored at 0; it still displays the set value while
`e * 60` is below `U`. With a whole number `p` of units to the tick it displays the set value less `k`, `k` ticks later, and one
unit before the first tick the set value. The exact tick is the spec's decision D4 (entry 24). -/
def Obligations.ATimerLosesOneEachTickAfterItIsSet : Prop :=
  ∀ (s : State) (x : Reg) (i : Instr) (val : State → Nat → Nat), 0 < s.unitsPerSecond →
    (i = .ldDtVx x ∧ val = State.dtVal) ∨ (i = .ldStVx x ∧ val = State.stVal) →
    ∃ t, exec i s = .next t ∧
      (∀ e, val t (s.env.now + e) = (s.getV x).toNat - e * 60 / s.unitsPerSecond) ∧
      (∀ e, e * 60 < s.unitsPerSecond → val t (s.env.now + e) = (s.getV x).toNat) ∧
      ∀ p, s.unitsPerSecond = 60 * p →
        (∀ k, val t (s.env.now + k * p) = (s.getV x).toNat - k) ∧ val t (s.env.now + p - 1) = (s.getV x).toNat

/-! ### Reset and load -/

/-- 10_state.md R43: the state after reset. The zeros and `RUN` are the spec's decision D16 (entry 7), `PC` is deduced (entry 8),
the font base is its decision D17 (entry 6), the font bytes are the presumed default of the parameter (entry 5), the quirks are
the open parameters (entry 3), and the stack pointer is a count (entry 9). -/
def Obligations.ResetLeavesTheStatedValues : Prop :=
  State.reset.sp = 0 ∧ State.reset.pc = 0x200 ∧ State.reset.i = 0 ∧ (∀ r, State.reset.getV r = 0) ∧
  (∀ k : Fin 16, State.reset.stack[k.val] = 0) ∧ State.reset.dt = ⟨0, 0⟩ ∧ State.reset.st = ⟨0, 0⟩ ∧
  (∀ r c, State.reset.fb.get r c = false) ∧ State.reset.run = .running ∧
  State.reset.quirks = ⟨Config.shiftQuirk, Config.jumpQuirk, Config.addCarryQuirk, Config.incrementQuirk⟩ ∧
  (∀ k : Fin 80, State.reset.mem.read (0x050 + k.val) = defaultFont[k.val]) ∧
  (∀ a, a < 0x050 ∨ 0x0A0 ≤ a → State.reset.mem.read a = 0)

/-- 70_reset_and_hazards.md R250 to R253, R255: an image that fits is copied to 0x200, the font to its base, and everything
else is as after reset; a longer one gives no machine. These are the spec's: that refusal, decision D18 (entry 10); the zeros,
decision D16 (entry 7); the font base, decision D17 (entry 6). `PC` at 0x200 is deduced (entry 8), and the fields of the ports
are the model's own (entries 1, 2, 15). -/
def Obligations.AnImageIsLoadedAtTheProgramBase : Prop :=
  ∀ (q : Quirks) (u : Nat) (font : Font) (image : List Byte), 0 < u →
    (image.length ≤ 3584 → ∃ s, boot q u font image = some s ∧
      (∀ k : Nat, k < image.length → s.mem.read (0x200 + k) = (image[k]?).getD 0) ∧
      (∀ k : Fin 80, s.mem.read (0x050 + k.val) = font[k.val]) ∧
      (∀ a, a < 0x050 ∨ (0x0A0 ≤ a ∧ a < 0x200) ∨ 0x200 + image.length ≤ a → s.mem.read a = 0) ∧
      s.quirks = q ∧ s.unitsPerSecond = u ∧ s.mem.font = font ∧ s.pc = 0x200 ∧ s.sp = 0 ∧ s.run = .running ∧
      SameRegs State.reset s ∧ s.i = State.reset.i ∧ SameStack State.reset s ∧ SameTimers State.reset s ∧
      SameDisplay State.reset s ∧ s.env = State.reset.env ∧ s.pending = State.reset.pending ∧
      s.drawn = State.reset.drawn ∧ s.mem.wf) ∧
    (image.length > 3584 → boot q u font image = none)

/-! ### What an instruction does not depend on -/

/-- 10_state.md R37 to R40: the random byte is consumed by `Cxkk` only, the keys by `Ex9E` and `ExA1` only, the time by `Fx07`,
`Fx15` and `Fx18` only, and a running machine ignores the event: a sample that differs elsewhere gives the same next state. -/
def Obligations.EachInputIsReadByItsInstructionsOnly : Prop :=
  ∀ (i : Instr) (s t : State) (e : Env), agreeFor i s.env e → exec i s = .next t →
    exec i (s.withEnv e) = .next (t.withEnv e)

/-- 10_state.md R32: the quirks select the effect of six instructions only; and 70_reset_and_hazards.md R260: of these a shift
of a register by itself and a `Bnnn` with a high nibble of 0 do not depend on them either. -/
def Obligations.TheQuirksSelectInSixInstructionsOnly : Prop :=
  ∀ (i : Instr) (s t : State) (q : Quirks), exec i s = .next t →
    (quirkDependent i = false ∨ (∃ x, i = .shrVxVy x x ∨ i = .shlVxVy x x) ∨ ∃ nnn, i = .jpV0Nnn nnn ∧ nnn.toNat < 256) →
    exec i (s.withQuirks q) = .next (t.withQuirks q)
end

