-- ==== Sys2Proof/Laws/Decode.lean ====
section
/-! SUPPORT. The fields of a word and the words of the operand shapes as numbers, for arithmetic on them. -/

namespace Sys2Proof

/-! ### Fields of a word (30_encoding.md R73) -/

@[simp] theorem opField_toNat (w : Word) : (opField w).toNat = w.toNat / 4096 := by
  have := w.isLt
  simp only [opField, BitVec.extractLsb'_toNat, Nat.shiftRight_eq_div_pow]
  omega

@[simp] theorem xField_val (w : Word) : (xField w).val = w.toNat / 256 % 16 := by
  show (w.extractLsb' 8 4).toNat = _
  simp only [BitVec.extractLsb'_toNat, Nat.shiftRight_eq_div_pow]

@[simp] theorem yField_val (w : Word) : (yField w).val = w.toNat / 16 % 16 := by
  show (w.extractLsb' 4 4).toNat = _
  simp only [BitVec.extractLsb'_toNat, Nat.shiftRight_eq_div_pow]

@[simp] theorem nField_toNat (w : Word) : (nField w).toNat = w.toNat % 16 := by simp [nField]

@[simp] theorem kkField_toNat (w : Word) : (kkField w).toNat = w.toNat % 256 := by simp [kkField]

@[simp] theorem nnnField_toNat (w : Word) : (nnnField w).toNat = w.toNat % 4096 := by simp [nnnField]

@[simp] theorem nibble_toNat (x : Reg) : (nibble x).toNat = x.val := by simp [nibble]

/-! ### Words of the operand shapes (30_encoding.md R74) -/

theorem append_toNat {m n : Nat} (a : BitVec m) (b : BitVec n) : (a ++ b).toNat = a.toNat * 2 ^ n + b.toNat := by
  rw [BitVec.toNat_append, ← Nat.shiftLeft_add_eq_or_of_lt b.isLt, Nat.shiftLeft_eq]

/-- The shape NNN. -/
theorem nnnWord_toNat (op : BitVec 4) (nnn : Addr12) :
    BitVec.toNat (w := 16) (op ++ nnn) = op.toNat * 4096 + nnn.toNat :=
  append_toNat op nnn

/-- The shapes XKK and X. -/
theorem xkkWord_toNat (op : BitVec 4) (x : Reg) (kk : Byte) :
    BitVec.toNat (w := 16) (op ++ nibble x ++ kk) = op.toNat * 4096 + x.val * 256 + kk.toNat := by
  show BitVec.toNat (w := 4 + 4 + 8) _ = _
  simp only [append_toNat, nibble_toNat]
  omega

/-- The shapes XY and XYN. -/
theorem xynWord_toNat (op : BitVec 4) (x y : Reg) (n : BitVec 4) :
    BitVec.toNat (w := 16) (op ++ nibble x ++ nibble y ++ n) =
      op.toNat * 4096 + x.val * 256 + y.val * 16 + n.toNat := by
  show BitVec.toNat (w := 4 + 4 + 4 + 4) _ = _
  simp only [append_toNat, nibble_toNat]
  omega

/-! ### Bytes of a word (20_memory.md R61) -/

theorem joinBytes_toNat (hi lo : Byte) : (joinBytes hi lo).toNat = hi.toNat * 256 + lo.toNat :=
  append_toNat hi lo

theorem highByte_toNat (w : Word) : (highByte w).toNat = w.toNat / 256 := by
  have := w.isLt
  simp only [highByte, BitVec.extractLsb'_toNat, Nat.shiftRight_eq_div_pow]
  omega

theorem lowByte_toNat (w : Word) : (lowByte w).toNat = w.toNat % 256 := by simp [lowByte]

@[simp] theorem joinBytes_high_low (w : Word) : joinBytes (highByte w) (lowByte w) = w := by
  apply BitVec.eq_of_toNat_eq
  rw [joinBytes_toNat, highByte_toNat, lowByte_toNat]
  omega

/-! ### Masks of the opcode table (30_encoding.md R78) as arithmetic -/

/-- Two words agree under a mask exactly when every bit of the mask agrees. -/
theorem and_eq_iff (w m v : Word) :
    w &&& m = v ↔ ∀ i : Fin 16, (w.getLsbD i && m.getLsbD i) = v.getLsbD i := by
  constructor
  · rintro rfl i
    simp
  · intro h
    apply BitVec.eq_of_getLsbD_eq
    intro i hi
    simpa using h ⟨i, hi⟩

/-- The mask 0xF000 looks at `op`. -/
theorem and_F000 (w : Word) : (w &&& 0xF000).toNat = w.toNat / 4096 * 4096 := by
  have h : w &&& (0xF000 : Word) = (w >>> 12) <<< 12 := by
    ext i hi
    have : i < 16 := hi
    interval_cases i <;> simp [BitVec.getElem_ushiftRight, BitVec.getElem_shiftLeft]
  have := w.isLt
  rw [h]
  simp only [BitVec.toNat_shiftLeft, BitVec.toNat_ushiftRight, Nat.shiftRight_eq_div_pow, Nat.shiftLeft_eq]
  omega

/-- The mask 0x000F looks at `n`. -/
theorem and_000F (w : Word) : (w &&& 0x000F).toNat = w.toNat % 16 := by
  have := Nat.and_two_pow_sub_one_eq_mod w.toNat 4
  simpa using this

/-- The mask 0x00FF looks at `kk`. -/
theorem and_00FF (w : Word) : (w &&& 0x00FF).toNat = w.toNat % 256 := by
  have := Nat.and_two_pow_sub_one_eq_mod w.toNat 8
  simpa using this

end Sys2Proof
end

