-- ==== Sys2Proof/Laws/State.lean ====
section
/-! SUPPORT. One lemma per field for every update of the state, and the small lemmas of the register operations. -/

namespace Sys2Proof.Machine

variable (s : State)

/-! ### setV -/

@[simp] theorem setV_mem (x : Reg) (b : Byte) : (s.setV x b).mem = s.mem := rfl
@[simp] theorem setV_i (x : Reg) (b : Byte) : (s.setV x b).i = s.i := rfl
@[simp] theorem setV_pc (x : Reg) (b : Byte) : (s.setV x b).pc = s.pc := rfl
@[simp] theorem setV_stack (x : Reg) (b : Byte) : (s.setV x b).stack = s.stack := rfl
@[simp] theorem setV_sp (x : Reg) (b : Byte) : (s.setV x b).sp = s.sp := rfl
@[simp] theorem setV_dt (x : Reg) (b : Byte) : (s.setV x b).dt = s.dt := rfl
@[simp] theorem setV_st (x : Reg) (b : Byte) : (s.setV x b).st = s.st := rfl
@[simp] theorem setV_fb (x : Reg) (b : Byte) : (s.setV x b).fb = s.fb := rfl
@[simp] theorem setV_run (x : Reg) (b : Byte) : (s.setV x b).run = s.run := rfl
@[simp] theorem setV_quirks (x : Reg) (b : Byte) : (s.setV x b).quirks = s.quirks := rfl
@[simp] theorem setV_unitsPerSecond (x : Reg) (b : Byte) : (s.setV x b).unitsPerSecond = s.unitsPerSecond := rfl
@[simp] theorem setV_env (x : Reg) (b : Byte) : (s.setV x b).env = s.env := rfl
@[simp] theorem setV_pending (x : Reg) (b : Byte) : (s.setV x b).pending = s.pending := rfl
@[simp] theorem setV_drawn (x : Reg) (b : Byte) : (s.setV x b).drawn = s.drawn := rfl
@[simp] theorem setV_display (x : Reg) (b : Byte) : (s.setV x b).display = s.display := rfl

/-! ### setVF -/

@[simp] theorem setVF_mem (x : Reg) (r f : Byte) : (s.setVF x r f).mem = s.mem := rfl
@[simp] theorem setVF_i (x : Reg) (r f : Byte) : (s.setVF x r f).i = s.i := rfl
@[simp] theorem setVF_pc (x : Reg) (r f : Byte) : (s.setVF x r f).pc = s.pc := rfl
@[simp] theorem setVF_stack (x : Reg) (r f : Byte) : (s.setVF x r f).stack = s.stack := rfl
@[simp] theorem setVF_sp (x : Reg) (r f : Byte) : (s.setVF x r f).sp = s.sp := rfl
@[simp] theorem setVF_dt (x : Reg) (r f : Byte) : (s.setVF x r f).dt = s.dt := rfl
@[simp] theorem setVF_st (x : Reg) (r f : Byte) : (s.setVF x r f).st = s.st := rfl
@[simp] theorem setVF_fb (x : Reg) (r f : Byte) : (s.setVF x r f).fb = s.fb := rfl
@[simp] theorem setVF_run (x : Reg) (r f : Byte) : (s.setVF x r f).run = s.run := rfl
@[simp] theorem setVF_quirks (x : Reg) (r f : Byte) : (s.setVF x r f).quirks = s.quirks := rfl
@[simp] theorem setVF_unitsPerSecond (x : Reg) (r f : Byte) : (s.setVF x r f).unitsPerSecond = s.unitsPerSecond := rfl
@[simp] theorem setVF_env (x : Reg) (r f : Byte) : (s.setVF x r f).env = s.env := rfl
@[simp] theorem setVF_pending (x : Reg) (r f : Byte) : (s.setVF x r f).pending = s.pending := rfl
@[simp] theorem setVF_drawn (x : Reg) (r f : Byte) : (s.setVF x r f).drawn = s.drawn := rfl
@[simp] theorem setVF_display (x : Reg) (r f : Byte) : (s.setVF x r f).display = s.display := rfl

/-! ### setI -/

@[simp] theorem setI_mem (w : Word) : (s.setI w).mem = s.mem := rfl
@[simp] theorem setI_v (w : Word) : (s.setI w).v = s.v := rfl
@[simp] theorem setI_i (w : Word) : (s.setI w).i = w := rfl
@[simp] theorem setI_pc (w : Word) : (s.setI w).pc = s.pc := rfl
@[simp] theorem setI_stack (w : Word) : (s.setI w).stack = s.stack := rfl
@[simp] theorem setI_sp (w : Word) : (s.setI w).sp = s.sp := rfl
@[simp] theorem setI_dt (w : Word) : (s.setI w).dt = s.dt := rfl
@[simp] theorem setI_st (w : Word) : (s.setI w).st = s.st := rfl
@[simp] theorem setI_fb (w : Word) : (s.setI w).fb = s.fb := rfl
@[simp] theorem setI_run (w : Word) : (s.setI w).run = s.run := rfl
@[simp] theorem setI_quirks (w : Word) : (s.setI w).quirks = s.quirks := rfl
@[simp] theorem setI_unitsPerSecond (w : Word) : (s.setI w).unitsPerSecond = s.unitsPerSecond := rfl
@[simp] theorem setI_env (w : Word) : (s.setI w).env = s.env := rfl
@[simp] theorem setI_pending (w : Word) : (s.setI w).pending = s.pending := rfl
@[simp] theorem setI_drawn (w : Word) : (s.setI w).drawn = s.drawn := rfl
@[simp] theorem setI_display (w : Word) : (s.setI w).display = s.display := rfl
@[simp] theorem setI_getV (w : Word) (y : Reg) : (s.setI w).getV y = s.getV y := rfl

/-! ### setPc -/

@[simp] theorem setPc_mem (w : Word) : (s.setPc w).mem = s.mem := rfl
@[simp] theorem setPc_v (w : Word) : (s.setPc w).v = s.v := rfl
@[simp] theorem setPc_i (w : Word) : (s.setPc w).i = s.i := rfl
@[simp] theorem setPc_pc (w : Word) : (s.setPc w).pc = w := rfl
@[simp] theorem setPc_stack (w : Word) : (s.setPc w).stack = s.stack := rfl
@[simp] theorem setPc_sp (w : Word) : (s.setPc w).sp = s.sp := rfl
@[simp] theorem setPc_dt (w : Word) : (s.setPc w).dt = s.dt := rfl
@[simp] theorem setPc_st (w : Word) : (s.setPc w).st = s.st := rfl
@[simp] theorem setPc_fb (w : Word) : (s.setPc w).fb = s.fb := rfl
@[simp] theorem setPc_run (w : Word) : (s.setPc w).run = s.run := rfl
@[simp] theorem setPc_quirks (w : Word) : (s.setPc w).quirks = s.quirks := rfl
@[simp] theorem setPc_unitsPerSecond (w : Word) : (s.setPc w).unitsPerSecond = s.unitsPerSecond := rfl
@[simp] theorem setPc_env (w : Word) : (s.setPc w).env = s.env := rfl
@[simp] theorem setPc_pending (w : Word) : (s.setPc w).pending = s.pending := rfl
@[simp] theorem setPc_drawn (w : Word) : (s.setPc w).drawn = s.drawn := rfl
@[simp] theorem setPc_display (w : Word) : (s.setPc w).display = s.display := rfl
@[simp] theorem setPc_getV (w : Word) (y : Reg) : (s.setPc w).getV y = s.getV y := rfl

/-! ### setDt -/

@[simp] theorem setDt_mem (u : Timer) : (s.setDt u).mem = s.mem := rfl
@[simp] theorem setDt_v (u : Timer) : (s.setDt u).v = s.v := rfl
@[simp] theorem setDt_i (u : Timer) : (s.setDt u).i = s.i := rfl
@[simp] theorem setDt_pc (u : Timer) : (s.setDt u).pc = s.pc := rfl
@[simp] theorem setDt_stack (u : Timer) : (s.setDt u).stack = s.stack := rfl
@[simp] theorem setDt_sp (u : Timer) : (s.setDt u).sp = s.sp := rfl
@[simp] theorem setDt_dt (u : Timer) : (s.setDt u).dt = u := rfl
@[simp] theorem setDt_st (u : Timer) : (s.setDt u).st = s.st := rfl
@[simp] theorem setDt_fb (u : Timer) : (s.setDt u).fb = s.fb := rfl
@[simp] theorem setDt_run (u : Timer) : (s.setDt u).run = s.run := rfl
@[simp] theorem setDt_quirks (u : Timer) : (s.setDt u).quirks = s.quirks := rfl
@[simp] theorem setDt_unitsPerSecond (u : Timer) : (s.setDt u).unitsPerSecond = s.unitsPerSecond := rfl
@[simp] theorem setDt_env (u : Timer) : (s.setDt u).env = s.env := rfl
@[simp] theorem setDt_pending (u : Timer) : (s.setDt u).pending = s.pending := rfl
@[simp] theorem setDt_drawn (u : Timer) : (s.setDt u).drawn = s.drawn := rfl
@[simp] theorem setDt_display (u : Timer) : (s.setDt u).display = s.display := rfl
@[simp] theorem setDt_getV (u : Timer) (y : Reg) : (s.setDt u).getV y = s.getV y := rfl

/-! ### setSt -/

@[simp] theorem setSt_mem (u : Timer) : (s.setSt u).mem = s.mem := rfl
@[simp] theorem setSt_v (u : Timer) : (s.setSt u).v = s.v := rfl
@[simp] theorem setSt_i (u : Timer) : (s.setSt u).i = s.i := rfl
@[simp] theorem setSt_pc (u : Timer) : (s.setSt u).pc = s.pc := rfl
@[simp] theorem setSt_stack (u : Timer) : (s.setSt u).stack = s.stack := rfl
@[simp] theorem setSt_sp (u : Timer) : (s.setSt u).sp = s.sp := rfl
@[simp] theorem setSt_dt (u : Timer) : (s.setSt u).dt = s.dt := rfl
@[simp] theorem setSt_st (u : Timer) : (s.setSt u).st = u := rfl
@[simp] theorem setSt_fb (u : Timer) : (s.setSt u).fb = s.fb := rfl
@[simp] theorem setSt_run (u : Timer) : (s.setSt u).run = s.run := rfl
@[simp] theorem setSt_quirks (u : Timer) : (s.setSt u).quirks = s.quirks := rfl
@[simp] theorem setSt_unitsPerSecond (u : Timer) : (s.setSt u).unitsPerSecond = s.unitsPerSecond := rfl
@[simp] theorem setSt_env (u : Timer) : (s.setSt u).env = s.env := rfl
@[simp] theorem setSt_pending (u : Timer) : (s.setSt u).pending = s.pending := rfl
@[simp] theorem setSt_drawn (u : Timer) : (s.setSt u).drawn = s.drawn := rfl
@[simp] theorem setSt_display (u : Timer) : (s.setSt u).display = s.display := rfl
@[simp] theorem setSt_getV (u : Timer) (y : Reg) : (s.setSt u).getV y = s.getV y := rfl

/-! ### setRun -/

@[simp] theorem setRun_mem (r : RunState) : (s.setRun r).mem = s.mem := rfl
@[simp] theorem setRun_v (r : RunState) : (s.setRun r).v = s.v := rfl
@[simp] theorem setRun_i (r : RunState) : (s.setRun r).i = s.i := rfl
@[simp] theorem setRun_pc (r : RunState) : (s.setRun r).pc = s.pc := rfl
@[simp] theorem setRun_stack (r : RunState) : (s.setRun r).stack = s.stack := rfl
@[simp] theorem setRun_sp (r : RunState) : (s.setRun r).sp = s.sp := rfl
@[simp] theorem setRun_dt (r : RunState) : (s.setRun r).dt = s.dt := rfl
@[simp] theorem setRun_st (r : RunState) : (s.setRun r).st = s.st := rfl
@[simp] theorem setRun_fb (r : RunState) : (s.setRun r).fb = s.fb := rfl
@[simp] theorem setRun_run (r : RunState) : (s.setRun r).run = r := rfl
@[simp] theorem setRun_quirks (r : RunState) : (s.setRun r).quirks = s.quirks := rfl
@[simp] theorem setRun_unitsPerSecond (r : RunState) : (s.setRun r).unitsPerSecond = s.unitsPerSecond := rfl
@[simp] theorem setRun_env (r : RunState) : (s.setRun r).env = s.env := rfl
@[simp] theorem setRun_pending (r : RunState) : (s.setRun r).pending = s.pending := rfl
@[simp] theorem setRun_drawn (r : RunState) : (s.setRun r).drawn = s.drawn := rfl
@[simp] theorem setRun_display (r : RunState) : (s.setRun r).display = s.display := rfl
@[simp] theorem setRun_getV (r : RunState) (y : Reg) : (s.setRun r).getV y = s.getV y := rfl

/-! ### setPrefix -/

@[simp] theorem setPrefix_mem (bs : List Byte) : (s.setPrefix bs).mem = s.mem := rfl
@[simp] theorem setPrefix_i (bs : List Byte) : (s.setPrefix bs).i = s.i := rfl
@[simp] theorem setPrefix_pc (bs : List Byte) : (s.setPrefix bs).pc = s.pc := rfl
@[simp] theorem setPrefix_stack (bs : List Byte) : (s.setPrefix bs).stack = s.stack := rfl
@[simp] theorem setPrefix_sp (bs : List Byte) : (s.setPrefix bs).sp = s.sp := rfl
@[simp] theorem setPrefix_dt (bs : List Byte) : (s.setPrefix bs).dt = s.dt := rfl
@[simp] theorem setPrefix_st (bs : List Byte) : (s.setPrefix bs).st = s.st := rfl
@[simp] theorem setPrefix_fb (bs : List Byte) : (s.setPrefix bs).fb = s.fb := rfl
@[simp] theorem setPrefix_run (bs : List Byte) : (s.setPrefix bs).run = s.run := rfl
@[simp] theorem setPrefix_quirks (bs : List Byte) : (s.setPrefix bs).quirks = s.quirks := rfl
@[simp] theorem setPrefix_unitsPerSecond (bs : List Byte) : (s.setPrefix bs).unitsPerSecond = s.unitsPerSecond := rfl
@[simp] theorem setPrefix_env (bs : List Byte) : (s.setPrefix bs).env = s.env := rfl
@[simp] theorem setPrefix_pending (bs : List Byte) : (s.setPrefix bs).pending = s.pending := rfl
@[simp] theorem setPrefix_drawn (bs : List Byte) : (s.setPrefix bs).drawn = s.drawn := rfl
@[simp] theorem setPrefix_display (bs : List Byte) : (s.setPrefix bs).display = s.display := rfl

/-! ### setMem -/

@[simp] theorem setMem_mem (m : Memory) : (s.setMem m).mem = m := rfl
@[simp] theorem setMem_v (m : Memory) : (s.setMem m).v = s.v := rfl
@[simp] theorem setMem_i (m : Memory) : (s.setMem m).i = s.i := rfl
@[simp] theorem setMem_pc (m : Memory) : (s.setMem m).pc = s.pc := rfl
@[simp] theorem setMem_stack (m : Memory) : (s.setMem m).stack = s.stack := rfl
@[simp] theorem setMem_sp (m : Memory) : (s.setMem m).sp = s.sp := rfl
@[simp] theorem setMem_dt (m : Memory) : (s.setMem m).dt = s.dt := rfl
@[simp] theorem setMem_st (m : Memory) : (s.setMem m).st = s.st := rfl
@[simp] theorem setMem_fb (m : Memory) : (s.setMem m).fb = s.fb := rfl
@[simp] theorem setMem_run (m : Memory) : (s.setMem m).run = s.run := rfl
@[simp] theorem setMem_quirks (m : Memory) : (s.setMem m).quirks = s.quirks := rfl
@[simp] theorem setMem_unitsPerSecond (m : Memory) : (s.setMem m).unitsPerSecond = s.unitsPerSecond := rfl
@[simp] theorem setMem_env (m : Memory) : (s.setMem m).env = s.env := rfl
@[simp] theorem setMem_pending (m : Memory) : (s.setMem m).pending = s.pending := rfl
@[simp] theorem setMem_drawn (m : Memory) : (s.setMem m).drawn = s.drawn := rfl
@[simp] theorem setMem_display (m : Memory) : (s.setMem m).display = s.display := rfl
@[simp] theorem setMem_getV (m : Memory) (y : Reg) : (s.setMem m).getV y = s.getV y := rfl

/-! ### setFb -/

@[simp] theorem setFb_mem (f : Frame) : (s.setFb f).mem = s.mem := rfl
@[simp] theorem setFb_v (f : Frame) : (s.setFb f).v = s.v := rfl
@[simp] theorem setFb_i (f : Frame) : (s.setFb f).i = s.i := rfl
@[simp] theorem setFb_pc (f : Frame) : (s.setFb f).pc = s.pc := rfl
@[simp] theorem setFb_stack (f : Frame) : (s.setFb f).stack = s.stack := rfl
@[simp] theorem setFb_sp (f : Frame) : (s.setFb f).sp = s.sp := rfl
@[simp] theorem setFb_dt (f : Frame) : (s.setFb f).dt = s.dt := rfl
@[simp] theorem setFb_st (f : Frame) : (s.setFb f).st = s.st := rfl
@[simp] theorem setFb_fb (f : Frame) : (s.setFb f).fb = f := rfl
@[simp] theorem setFb_run (f : Frame) : (s.setFb f).run = s.run := rfl
@[simp] theorem setFb_quirks (f : Frame) : (s.setFb f).quirks = s.quirks := rfl
@[simp] theorem setFb_unitsPerSecond (f : Frame) : (s.setFb f).unitsPerSecond = s.unitsPerSecond := rfl
@[simp] theorem setFb_env (f : Frame) : (s.setFb f).env = s.env := rfl
@[simp] theorem setFb_pending (f : Frame) : (s.setFb f).pending = s.pending := rfl
@[simp] theorem setFb_drawn (f : Frame) : (s.setFb f).drawn = s.drawn := rfl
@[simp] theorem setFb_display (f : Frame) : (s.setFb f).display = s.display := rfl
@[simp] theorem setFb_getV (f : Frame) (y : Reg) : (s.setFb f).getV y = s.getV y := rfl

/-! ### emit -/

@[simp] theorem emit_mem (cs : List DisplayCommand) : (s.emit cs).mem = s.mem := rfl
@[simp] theorem emit_v (cs : List DisplayCommand) : (s.emit cs).v = s.v := rfl
@[simp] theorem emit_i (cs : List DisplayCommand) : (s.emit cs).i = s.i := rfl
@[simp] theorem emit_pc (cs : List DisplayCommand) : (s.emit cs).pc = s.pc := rfl
@[simp] theorem emit_stack (cs : List DisplayCommand) : (s.emit cs).stack = s.stack := rfl
@[simp] theorem emit_sp (cs : List DisplayCommand) : (s.emit cs).sp = s.sp := rfl
@[simp] theorem emit_dt (cs : List DisplayCommand) : (s.emit cs).dt = s.dt := rfl
@[simp] theorem emit_st (cs : List DisplayCommand) : (s.emit cs).st = s.st := rfl
@[simp] theorem emit_fb (cs : List DisplayCommand) : (s.emit cs).fb = s.fb := rfl
@[simp] theorem emit_run (cs : List DisplayCommand) : (s.emit cs).run = s.run := rfl
@[simp] theorem emit_quirks (cs : List DisplayCommand) : (s.emit cs).quirks = s.quirks := rfl
@[simp] theorem emit_unitsPerSecond (cs : List DisplayCommand) : (s.emit cs).unitsPerSecond = s.unitsPerSecond := rfl
@[simp] theorem emit_env (cs : List DisplayCommand) : (s.emit cs).env = s.env := rfl
@[simp] theorem emit_pending (cs : List DisplayCommand) : (s.emit cs).pending = s.pending := rfl
@[simp] theorem emit_drawn (cs : List DisplayCommand) : (s.emit cs).drawn = s.drawn := rfl
@[simp] theorem emit_display (cs : List DisplayCommand) : (s.emit cs).display = s.display ++ cs := rfl
@[simp] theorem emit_getV (cs : List DisplayCommand) (y : Reg) : (s.emit cs).getV y = s.getV y := rfl

/-! ### sample -/

@[simp] theorem sample_mem : (s.sample).mem = s.mem := rfl
@[simp] theorem sample_v : (s.sample).v = s.v := rfl
@[simp] theorem sample_i : (s.sample).i = s.i := rfl
@[simp] theorem sample_pc : (s.sample).pc = s.pc := rfl
@[simp] theorem sample_stack : (s.sample).stack = s.stack := rfl
@[simp] theorem sample_sp : (s.sample).sp = s.sp := rfl
@[simp] theorem sample_dt : (s.sample).dt = s.dt := rfl
@[simp] theorem sample_st : (s.sample).st = s.st := rfl
@[simp] theorem sample_fb : (s.sample).fb = s.fb := rfl
@[simp] theorem sample_run : (s.sample).run = s.run := rfl
@[simp] theorem sample_quirks : (s.sample).quirks = s.quirks := rfl
@[simp] theorem sample_unitsPerSecond : (s.sample).unitsPerSecond = s.unitsPerSecond := rfl
@[simp] theorem sample_env : (s.sample).env = s.nextEnv := rfl
@[simp] theorem sample_pending : (s.sample).pending = s.pending.tail := rfl
@[simp] theorem sample_drawn : (s.sample).drawn = if s.pending.isEmpty then s.drawn + 1 else s.drawn := rfl
@[simp] theorem sample_display : (s.sample).display = [] := rfl
@[simp] theorem sample_getV (y : Reg) : (s.sample).getV y = s.getV y := rfl

/-! ### skipIf -/

@[simp] theorem skipIf_mem (c : Bool) : (s.skipIf c).mem = s.mem := by
  unfold State.skipIf; split <;> rfl
@[simp] theorem skipIf_v (c : Bool) : (s.skipIf c).v = s.v := by
  unfold State.skipIf; split <;> rfl
@[simp] theorem skipIf_i (c : Bool) : (s.skipIf c).i = s.i := by
  unfold State.skipIf; split <;> rfl
@[simp] theorem skipIf_stack (c : Bool) : (s.skipIf c).stack = s.stack := by
  unfold State.skipIf; split <;> rfl
@[simp] theorem skipIf_sp (c : Bool) : (s.skipIf c).sp = s.sp := by
  unfold State.skipIf; split <;> rfl
@[simp] theorem skipIf_dt (c : Bool) : (s.skipIf c).dt = s.dt := by
  unfold State.skipIf; split <;> rfl
@[simp] theorem skipIf_st (c : Bool) : (s.skipIf c).st = s.st := by
  unfold State.skipIf; split <;> rfl
@[simp] theorem skipIf_fb (c : Bool) : (s.skipIf c).fb = s.fb := by
  unfold State.skipIf; split <;> rfl
@[simp] theorem skipIf_run (c : Bool) : (s.skipIf c).run = s.run := by
  unfold State.skipIf; split <;> rfl
@[simp] theorem skipIf_quirks (c : Bool) : (s.skipIf c).quirks = s.quirks := by
  unfold State.skipIf; split <;> rfl
@[simp] theorem skipIf_unitsPerSecond (c : Bool) : (s.skipIf c).unitsPerSecond = s.unitsPerSecond := by
  unfold State.skipIf; split <;> rfl
@[simp] theorem skipIf_env (c : Bool) : (s.skipIf c).env = s.env := by
  unfold State.skipIf; split <;> rfl
@[simp] theorem skipIf_pending (c : Bool) : (s.skipIf c).pending = s.pending := by
  unfold State.skipIf; split <;> rfl
@[simp] theorem skipIf_drawn (c : Bool) : (s.skipIf c).drawn = s.drawn := by
  unfold State.skipIf; split <;> rfl
@[simp] theorem skipIf_display (c : Bool) : (s.skipIf c).display = s.display := by
  unfold State.skipIf; split <;> rfl
@[simp] theorem skipIf_getV (c : Bool) (y : Reg) : (s.skipIf c).getV y = s.getV y := by
  unfold State.skipIf; split <;> rfl

/-! ### advanceI -/

@[simp] theorem advanceI_mem (n : Nat) : (s.advanceI n).mem = s.mem := by
  unfold State.advanceI; split <;> rfl
@[simp] theorem advanceI_v (n : Nat) : (s.advanceI n).v = s.v := by
  unfold State.advanceI; split <;> rfl
@[simp] theorem advanceI_pc (n : Nat) : (s.advanceI n).pc = s.pc := by
  unfold State.advanceI; split <;> rfl
@[simp] theorem advanceI_stack (n : Nat) : (s.advanceI n).stack = s.stack := by
  unfold State.advanceI; split <;> rfl
@[simp] theorem advanceI_sp (n : Nat) : (s.advanceI n).sp = s.sp := by
  unfold State.advanceI; split <;> rfl
@[simp] theorem advanceI_dt (n : Nat) : (s.advanceI n).dt = s.dt := by
  unfold State.advanceI; split <;> rfl
@[simp] theorem advanceI_st (n : Nat) : (s.advanceI n).st = s.st := by
  unfold State.advanceI; split <;> rfl
@[simp] theorem advanceI_fb (n : Nat) : (s.advanceI n).fb = s.fb := by
  unfold State.advanceI; split <;> rfl
@[simp] theorem advanceI_run (n : Nat) : (s.advanceI n).run = s.run := by
  unfold State.advanceI; split <;> rfl
@[simp] theorem advanceI_quirks (n : Nat) : (s.advanceI n).quirks = s.quirks := by
  unfold State.advanceI; split <;> rfl
@[simp] theorem advanceI_unitsPerSecond (n : Nat) : (s.advanceI n).unitsPerSecond = s.unitsPerSecond := by
  unfold State.advanceI; split <;> rfl
@[simp] theorem advanceI_env (n : Nat) : (s.advanceI n).env = s.env := by
  unfold State.advanceI; split <;> rfl
@[simp] theorem advanceI_pending (n : Nat) : (s.advanceI n).pending = s.pending := by
  unfold State.advanceI; split <;> rfl
@[simp] theorem advanceI_drawn (n : Nat) : (s.advanceI n).drawn = s.drawn := by
  unfold State.advanceI; split <;> rfl
@[simp] theorem advanceI_display (n : Nat) : (s.advanceI n).display = s.display := by
  unfold State.advanceI; split <;> rfl
@[simp] theorem advanceI_getV (n : Nat) (y : Reg) : (s.advanceI n).getV y = s.getV y := by
  unfold State.advanceI; split <;> rfl

/-! ### Registers -/

theorem setV_getV (x y : Reg) (b : Byte) : (s.setV x b).getV y = if y = x then b else s.getV y := by
  simp only [State.setV, State.getV, Vector.getElem_set, Fin.ext_iff, eq_comm]

@[simp] theorem setV_getV_same (x : Reg) (b : Byte) : (s.setV x b).getV x = b := by simp [setV_getV]

theorem setV_getV_other {x y : Reg} (b : Byte) (h : y ≠ x) : (s.setV x b).getV y = s.getV y := by simp [setV_getV, h]

/-- The flag is written last: it wins where the result register is `VF` itself. -/
theorem setVF_getV (x y : Reg) (r f : Byte) :
    (s.setVF x r f).getV y = if y = vf then f else if y = x then r else s.getV y := by
  simp [State.setVF, setV_getV]

theorem setPrefix_getV (bs : List Byte) (y : Reg) :
    (s.setPrefix bs).getV y = (bs[y.val]?).getD (s.getV y) := by
  simp [State.setPrefix, State.getV]

theorem getPrefix_length (x : Reg) : (s.getPrefix x).length = x.val + 1 := by
  simp [State.getPrefix]

theorem getPrefix_getElem? (x : Reg) (k : Nat) :
    (s.getPrefix x)[k]? = if h : k ≤ x.val then some (s.getV ⟨k, by omega⟩) else none := by
  have hx := x.isLt
  by_cases h : k ≤ x.val
  · have h1 : k < x.val + 1 := by omega
    simp [State.getPrefix, State.getV, h, h1]
  · have h1 : ¬ k < x.val + 1 := by omega
    simp [State.getPrefix, h, h1]

theorem skipIf_pc (c : Bool) : (s.skipIf c).pc = if c then s.pc + 2 else s.pc := by
  cases c <;> rfl

theorem advanceI_i (n : Nat) :
    (s.advanceI n).i = if s.quirks.increment then s.i + BitVec.ofNat 16 n else s.i := by
  unfold State.advanceI; split <;> rfl

theorem advanceI_i_on {n : Nat} (h : s.quirks.increment = true) : (s.advanceI n).i = s.i + BitVec.ofNat 16 n := by
  simp [State.advanceI, h]

theorem advanceI_i_off {n : Nat} (h : s.quirks.increment = false) : (s.advanceI n).i = s.i := by
  simp [State.advanceI, h]

/-! ### The call stack -/

/-- All that a push does. -/
theorem push_eq_some {t : State} (h : s.push = some t) :
    ∃ hs : s.sp.val < 16, t = { s with stack := s.stack.set s.sp.val s.pc hs, sp := ⟨s.sp.val + 1, by omega⟩ } := by
  unfold State.push at h
  split at h
  · next hs => exact ⟨hs, by simpa using h.symm⟩
  · cases h

theorem push_eq_none : s.push = none ↔ s.sp.val = 16 := by
  have := s.sp.isLt
  unfold State.push
  split <;> simp <;> omega

/-- All that a pop does. -/
theorem pop_eq_some {t : State} (h : s.pop = some t) :
    ∃ (k : Nat) (hk : k < 16), s.sp.val = k + 1 ∧ t = { s with pc := s.stack[k], sp := ⟨k, by omega⟩ } := by
  unfold State.pop at h
  split at h
  · cases h
  · next k hk heq => exact ⟨k, by omega, by simp [heq], by simpa using h.symm⟩

theorem pop_eq_none : s.pop = none ↔ s.sp.val = 0 := by
  unfold State.pop
  split <;> simp_all

end Sys2Proof.Machine
end

