-- ==== Sys2Proof/Laws/Display.lean ====
section
/-! SUPPORT. What a sprite draw does to every pixel, to the collision flag and to the display port. -/

namespace Sys2Proof.Machine

/-! ### Pixels -/

theorem Frame.get_put (fb : Frame) (r r' : Fin 32) (c c' : Fin 64) (on : Bool) :
    (fb.put r c on).get r' c' = if r = r' ∧ c = c' then on else fb.get r' c' := by
  unfold Frame.put Frame.get
  rw [Vector.getElem_set]
  by_cases hr : r = r'
  · subst hr
    simp only [if_true, Vector.getElem_set, true_and, Fin.ext_iff]
  · have : r.val ≠ r'.val := fun h => hr (Fin.ext h)
    simp [this, hr]

@[simp] theorem Frame.get_off (r : Fin 32) (c : Fin 64) : Frame.off.get r c = false := by
  simp [Frame.off, Frame.get]

/-! ### The places of a sprite -/

theorem mem_rowPlaces {x0 y : Nat} {b : Byte} {p : Place} :
    p ∈ rowPlaces x0 y b ↔
      p.1.val = y ∧ x0 ≤ p.2.val ∧ p.2.val < x0 + 8 ∧ b.getLsbD (7 - (p.2.val - x0)) = true := by
  obtain ⟨r, c⟩ := p
  simp only [rowPlaces, List.mem_filterMap, List.mem_range]
  constructor
  · rintro ⟨k, hk, h⟩
    split at h
    · split at h
      · next hb =>
        simp only [Option.some.injEq, Prod.mk.injEq] at h
        obtain ⟨rfl, rfl⟩ := h
        refine ⟨rfl, Nat.le_add_right _ _, Nat.add_lt_add_left hk _, ?_⟩
        simpa using hb
      · cases h
    · cases h
  · rintro ⟨rfl, h1, h2, h3⟩
    have hr := r.isLt
    have hc := c.isLt
    have h1' : x0 ≤ c.val := h1
    have h2' : c.val < x0 + 8 := h2
    refine ⟨c.val - x0, by omega, ?_⟩
    have : x0 + (c.val - x0) = c.val := by omega
    simp only [this, hr, hc, and_self, dif_pos]
    rw [if_pos h3]

theorem nodup_rowPlaces (x0 y : Nat) (b : Byte) : (rowPlaces x0 y b).Nodup := by
  unfold rowPlaces
  refine List.Nodup.filterMap ?_ List.nodup_range
  intro k k' p hk hk'
  simp only [Option.mem_def] at hk hk'
  split at hk <;> [skip; cases hk]
  split at hk <;> [skip; cases hk]
  split at hk' <;> [skip; cases hk']
  split at hk' <;> [skip; cases hk']
  simp only [Option.some.injEq] at hk hk'
  rw [← hk'] at hk
  simp only [Prod.mk.injEq, Fin.mk.injEq, true_and] at hk
  omega

/-- The places a sprite toggles are exactly those its set bits fall on. -/
theorem mem_spritePlaces {x0 y0 : Nat} {sprite : List Byte} {p : Place} :
    p ∈ spritePlaces x0 y0 sprite ↔ spriteBit sprite x0 y0 p.1 p.2 = true := by
  induction sprite generalizing y0 with
  | nil => simp [spritePlaces, spriteBit]
  | cons b bs ih =>
    simp only [spritePlaces, List.mem_append, mem_rowPlaces, ih, spriteBit, Bool.and_eq_true, decide_eq_true_eq]
    by_cases h : p.1.val = y0
    · simp [h]; tauto
    · by_cases h2 : y0 ≤ p.1.val
      · have h3 : p.1.val - y0 = (p.1.val - (y0 + 1)) + 1 := by omega
        have h4 : y0 + 1 ≤ p.1.val := by omega
        simp [h, h2, h3, h4]
      · have h4 : ¬ y0 + 1 ≤ p.1.val := by omega
        simp [h, h2, h4]

theorem nodup_spritePlaces (x0 y0 : Nat) (sprite : List Byte) : (spritePlaces x0 y0 sprite).Nodup := by
  induction sprite generalizing y0 with
  | nil => simp [spritePlaces]
  | cons b bs ih =>
    refine List.Nodup.append (nodup_rowPlaces x0 y0 b) (ih (y0 + 1)) ?_
    intro p h1 h2
    rw [mem_rowPlaces] at h1
    rw [mem_spritePlaces, spriteBit] at h2
    simp only [Bool.and_eq_true, decide_eq_true_eq] at h2
    omega

/-! ### Drawing -/

theorem foldl_toggle_get (places : List Place) (hn : places.Nodup) (d : Drawing) (r : Fin 32) (c : Fin 64) :
    (places.foldl Drawing.toggle d).fb.get r c = (d.fb.get r c ^^ decide ((r, c) ∈ places)) := by
  induction places generalizing d with
  | nil => simp
  | cons p ps ih =>
    rw [List.nodup_cons] at hn
    rw [List.foldl_cons, ih hn.2]
    simp only [Drawing.toggle, Frame.get_put, List.mem_cons]
    by_cases h : p.1 = r ∧ p.2 = c
    · have hp : (r, c) = p := by rw [← h.1, ← h.2]
      have hnot : (r, c) ∉ ps := hp ▸ hn.1
      rw [if_pos h]
      simp [hp.symm, hnot]
    · have hp : (r, c) ≠ p := fun e => h (by rw [← e]; exact ⟨rfl, rfl⟩)
      rw [if_neg h]
      simp [hp]

theorem foldl_toggle_flag (places : List Place) (hn : places.Nodup) (d : Drawing) :
    (places.foldl Drawing.toggle d).flag = (d.flag || places.any fun p => d.fb.get p.1 p.2) := by
  induction places generalizing d with
  | nil => simp
  | cons p ps ih =>
    rw [List.nodup_cons] at hn
    rw [List.foldl_cons, ih hn.2]
    have : (ps.any fun q => (d.toggle p).fb.get q.1 q.2) = ps.any fun q => d.fb.get q.1 q.2 := by
      rw [Bool.eq_iff_iff, List.any_eq_true, List.any_eq_true]
      have key : ∀ q ∈ ps, (d.toggle p).fb.get q.1 q.2 = d.fb.get q.1 q.2 := by
        intro q hq
        simp only [Drawing.toggle, Frame.get_put]
        rw [if_neg]
        rintro ⟨h1, h2⟩
        exact hn.1 ((Prod.ext h1 h2 : p = q) ▸ hq)
      constructor <;> rintro ⟨q, hq, h⟩ <;> exact ⟨q, hq, by simpa [key q hq] using h⟩
    rw [this]
    simp [Drawing.toggle, Bool.or_assoc]

theorem foldl_toggle_present (places : List Place) (d : Drawing) (h : DisplayCommand.present ∉ d.commands) :
    DisplayCommand.present ∉ (places.foldl Drawing.toggle d).commands := by
  induction places generalizing d with
  | nil => exact h
  | cons p ps ih => exact ih _ (by simp [Drawing.toggle, h])

/-- All that a draw does to a pixel: exclusive or with the sprite bit that falls on it. -/
theorem drawPlaces_get (fb : Frame) (x0 y0 : Nat) (sprite : List Byte) (r : Fin 32) (c : Fin 64) :
    (drawPlaces fb (spritePlaces x0 y0 sprite)).fb.get r c = (fb.get r c ^^ spriteBit sprite x0 y0 r c) := by
  rw [drawPlaces, foldl_toggle_get _ (nodup_spritePlaces x0 y0 sprite)]
  congr 1
  rw [Bool.eq_iff_iff, decide_eq_true_eq]
  exact mem_spritePlaces

/-- All that a draw does to the flag: set exactly when some pixel that was on is toggled. -/
theorem drawPlaces_flag (fb : Frame) (x0 y0 : Nat) (sprite : List Byte) :
    (drawPlaces fb (spritePlaces x0 y0 sprite)).flag = true ↔
      ∃ (r : Fin 32) (c : Fin 64), fb.get r c = true ∧ spriteBit sprite x0 y0 r c = true := by
  rw [drawPlaces, foldl_toggle_flag _ (nodup_spritePlaces x0 y0 sprite)]
  simp only [Bool.false_or, List.any_eq_true]
  constructor
  · rintro ⟨p, hp, h⟩
    exact ⟨p.1, p.2, h, mem_spritePlaces.1 hp⟩
  · rintro ⟨r, c, h, hb⟩
    exact ⟨(r, c), mem_spritePlaces.2 hb, h⟩

theorem foldl_toggle_commands (places : List Place) (hn : places.Nodup) (d : Drawing) :
    (places.foldl Drawing.toggle d).commands =
      d.commands ++ places.flatMap fun p => [.getPixel p.1 p.2, .setPixel p.1 p.2 (!d.fb.get p.1 p.2)] := by
  induction places generalizing d with
  | nil => simp
  | cons p ps ih =>
    rw [List.nodup_cons] at hn
    have key : ∀ q ∈ ps, (d.toggle p).fb.get q.1 q.2 = d.fb.get q.1 q.2 := by
      intro q hq
      simp only [Drawing.toggle, Frame.get_put]
      rw [if_neg]
      rintro ⟨h1, h2⟩
      exact hn.1 ((Prod.ext h1 h2 : p = q) ▸ hq)
    rw [List.foldl_cons, ih hn.2, List.flatMap_cons, List.flatMap_congr fun q hq => by rw [key q hq]]
    simp [Drawing.toggle]

/-- All that a draw does to the display port before its `present()`: a read and a write of each place it toggles, in the
order of the places, the write being of the opposite of what the place held before the draw. -/
theorem drawPlaces_commands (fb : Frame) (x0 y0 : Nat) (sprite : List Byte) :
    (drawPlaces fb (spritePlaces x0 y0 sprite)).commands =
      (spritePlaces x0 y0 sprite).flatMap fun p => [.getPixel p.1 p.2, .setPixel p.1 p.2 (!fb.get p.1 p.2)] := by
  rw [drawPlaces, foldl_toggle_commands _ (nodup_spritePlaces x0 y0 sprite)]
  rfl

theorem drawPlaces_present (fb : Frame) (places : List Place) :
    DisplayCommand.present ∉ (drawPlaces fb places).commands :=
  foldl_toggle_present places _ (by simp)

/-- Two displays with equal pixels are equal. -/
theorem Frame.ext_get {fb fb' : Frame} (h : ∀ r c, fb.get r c = fb'.get r c) : fb = fb' := by
  refine Vector.ext fun r hr => Vector.ext fun c hc => ?_
  exact h ⟨r, hr⟩ ⟨c, hc⟩

end Sys2Proof.Machine
end

