-- ==== Sys2Proof/Laws/Memory.lean ====
section
/-! SUPPORT. What the memory operations do, and that each keeps the canonical form. -/

namespace Sys2Proof.Machine

namespace Memory

/-! ### Lists of cells -/

theorem lookup_insert (l : List Host.Cell) (a a' : Nat) (b : Byte) :
    lookup (insert l a b) a' = if a = a' then some b else lookup l a' := by
  induction l with
  | nil => simp [insert, lookup]
  | cons c t ih =>
    obtain ⟨k, c⟩ := c
    simp only [insert]
    split
    · simp only [lookup]
    · split
      · subst_vars; simp only [lookup]; split <;> simp_all
      · simp only [lookup, ih]; split <;> simp_all

theorem lookup_erase (l : List Host.Cell) (a a' : Nat) :
    lookup (erase l a) a' = if a = a' then none else lookup l a' := by
  induction l with
  | nil => simp [erase, lookup]
  | cons c t ih =>
    obtain ⟨k, c⟩ := c
    simp only [erase, List.filter_cons] at ih ⊢
    by_cases hk : k = a
    · subst hk; simp only [ne_eq, not_true_eq_false, decide_false, Bool.false_eq_true, if_false, ih, lookup]
      split <;> simp_all
    · simp only [ne_eq, hk, not_false_eq_true, decide_true, if_true, lookup, ih]
      split
      · next h => subst h; rw [if_neg (fun e => hk e.symm)]
      · rfl

theorem mem_insert {l : List Host.Cell} {a : Nat} {b : Byte} {c : Host.Cell} (h : c ∈ insert l a b) :
    c = (a, b) ∨ c ∈ l := by
  induction l with
  | nil => simpa [insert] using h
  | cons d t ih =>
    obtain ⟨k, d⟩ := d
    simp only [insert] at h
    split at h
    · simpa using h
    · split at h
      · rcases List.mem_cons.1 h with h | h <;> simp [h]
      · rcases List.mem_cons.1 h with h | h
        · simp [h]
        · rcases ih h with h | h <;> simp [h]

theorem insert_rising {l : List Host.Cell} (a : Nat) (b : Byte) (h : l.Pairwise (fun p q => p.1 < q.1)) :
    (insert l a b).Pairwise (fun p q => p.1 < q.1) := by
  induction l with
  | nil => simp [insert]
  | cons d t ih =>
    obtain ⟨k, d⟩ := d
    rw [List.pairwise_cons] at h
    simp only [insert]
    split
    · next hk =>
      refine List.pairwise_cons.2 ⟨fun c hc => ?_, List.pairwise_cons.2 h⟩
      rcases List.mem_cons.1 hc with rfl | hc
      · exact hk
      · exact Nat.lt_trans hk (h.1 c hc)
    · split
      · next hk => subst hk; exact List.pairwise_cons.2 h
      · next h1 h2 =>
        refine List.pairwise_cons.2 ⟨fun c hc => ?_, ih h.2⟩
        rcases mem_insert hc with rfl | hc
        · show k < a
          omega
        · exact h.1 c hc

/-! ### One byte -/

@[simp] theorem write_font (m : Memory) (a : Nat) (b : Byte) : (m.write a b).font = m.font := by
  unfold write; split <;> rfl

/-- All that a write does (20_memory.md R53): the byte at its address, if memory has one, and no other. -/
theorem read_write (m : Memory) (a a' : Nat) (b : Byte) :
    (m.write a b).read a' = if a = a' ∧ a < 4096 then b else m.read a' := by
  unfold write
  split
  · next ha =>
    by_cases hb : b = unlisted m.font a
    · by_cases h : a = a'
      · subst h; simp [read, hb, lookup_erase, ha]
      · simp [read, hb, lookup_erase, h]
    · by_cases h : a = a'
      · subst h; simp [read, hb, lookup_insert, ha]
      · simp [read, hb, lookup_insert, h]
  · next ha => simp [ha]

theorem read_write_same {m : Memory} {a : Nat} (b : Byte) (h : a < 4096) : (m.write a b).read a = b := by
  simp [read_write, h]

theorem read_write_other {m : Memory} {a a' : Nat} (b : Byte) (h : a ≠ a') : (m.write a b).read a' = m.read a' := by
  simp [read_write, h]

theorem write_wf {m : Memory} (a : Nat) (b : Byte) (h : m.wf) : (m.write a b).wf := by
  obtain ⟨hp, hc⟩ := h
  unfold write
  split
  · next ha =>
    by_cases hb : b = unlisted m.font a
    · simp only [hb, if_true, wf]
      exact ⟨hp.filter _, fun c hm => hc c (List.mem_filter.1 hm).1⟩
    · simp only [hb, if_false, wf]
      refine ⟨insert_rising a b hp, fun c hm => ?_⟩
      rcases mem_insert hm with rfl | hm
      · exact ⟨ha, hb⟩
      · exact hc c hm
  · exact ⟨hp, hc⟩

/-! ### Ranges -/

@[simp] theorem readBytes_length (m : Memory) (a n : Nat) : (m.readBytes a n).length = n := by simp [readBytes]

theorem readBytes_getElem? (m : Memory) (a n k : Nat) :
    (m.readBytes a n)[k]? = if k < n then some (m.read (a + k)) else none := by
  by_cases h : k < n <;> simp [readBytes, h]

@[simp] theorem writeBytes_font (m : Memory) (a : Nat) (bs : List Byte) : (m.writeBytes a bs).font = m.font := by
  induction bs generalizing m a with
  | nil => rfl
  | cons b bs ih => simp [writeBytes, ih]

/-- All that a range store inside memory does: the stored bytes, in ascending order, and no other byte. -/
theorem read_writeBytes (m : Memory) (a a' : Nat) (bs : List Byte) (h : a + bs.length ≤ 4096) :
    (m.writeBytes a bs).read a' = if a ≤ a' then (bs[a' - a]?).getD (m.read a') else m.read a' := by
  induction bs generalizing m a with
  | nil => simp [writeBytes]
  | cons b bs ih =>
    rw [List.length_cons] at h
    rw [writeBytes, ih _ _ (by omega), read_write]
    by_cases h1 : a = a'
    · subst h1
      have : a < 4096 := by omega
      simp [this]
    · by_cases h2 : a ≤ a'
      · have h3 : a + 1 ≤ a' := by omega
        have h4 : a' - a = (a' - (a + 1)) + 1 := by omega
        simp [h1, h2, h3, h4]
      · have h3 : ¬ a + 1 ≤ a' := by omega
        simp [h1, h2, h3]

theorem writeBytes_wf {m : Memory} (a : Nat) (bs : List Byte) (h : m.wf) : (m.writeBytes a bs).wf := by
  induction bs generalizing m a with
  | nil => exact h
  | cons b bs ih => exact ih _ (write_wf a b h)

theorem initial_wf (font : Font) : (Memory.initial font).wf := by simp [initial, wf]

@[simp] theorem read_initial (font : Font) (a : Nat) : (Memory.initial font).read a = unlisted font a := rfl

/-- The font bytes of a memory that lists nothing (20_memory.md R57, R58). -/
theorem unlisted_font (font : Font) (k : Fin 80) : unlisted font (0x050 + k.val) = font[k.val] := by
  have := k.isLt
  unfold unlisted fontBase
  rw [dif_pos (by omega)]
  simp

/-- The other bytes of a memory that lists nothing. -/
theorem unlisted_zero (font : Font) {a : Nat} (h : a < 0x050 ∨ 0x0A0 ≤ a) : unlisted font a = 0 := by
  unfold unlisted fontBase
  rw [dif_neg (by omega)]

/-! ### The canonical form -/

theorem lookup_eq_none_of_lt {l : List Host.Cell} {a : Nat} (h : ∀ c ∈ l, a < c.1) : lookup l a = none := by
  induction l with
  | nil => rfl
  | cons c t ih =>
    obtain ⟨k, c⟩ := c
    have h1 := h (k, c) (by simp)
    simp only [lookup]
    rw [if_neg (by simp at h1; omega)]
    exact ih fun c hc => h c (by simp [hc])

/-- A cell of a rising list is what a lookup of its address finds. -/
theorem lookup_of_mem {l : List Host.Cell} (hl : l.Pairwise (fun p q => p.1 < q.1)) {c : Host.Cell} (hc : c ∈ l) :
    lookup l c.1 = some c.2 := by
  induction l with
  | nil => cases hc
  | cons d t ih =>
    rw [List.pairwise_cons] at hl
    rcases List.mem_cons.1 hc with rfl | hc
    · simp [lookup]
    · have := hl.1 c hc
      simp only [lookup]
      rw [if_neg (by omega)]
      exact ih hl.2 hc

theorem mem_of_lookup {l : List Host.Cell} {a : Nat} {b : Byte} (h : lookup l a = some b) : (a, b) ∈ l := by
  induction l with
  | nil => cases h
  | cons d t ih =>
    obtain ⟨k, d⟩ := d
    simp only [lookup] at h
    split at h
    · simp_all
    · exact List.mem_cons_of_mem _ (ih h)

/-- Memories in canonical form that read alike are equal data. -/
theorem ext_of_read {m m' : Memory} (h : m.wf) (h' : m'.wf) (hf : m.font = m'.font)
    (hr : ∀ a, m.read a = m'.read a) : m = m' := by
  have key : ∀ {p q : Memory}, p.wf → q.wf → p.font = q.font → (∀ a, p.read a = q.read a) →
      ∀ c ∈ p.cells, c ∈ q.cells := by
    intro p q hp hq hpq hread c hc
    have h1 := lookup_of_mem hp.1 hc
    have h2 := hread c.1
    have h3 := (hp.2 c hc).2
    simp only [read, h1, Option.getD_some] at h2
    cases hq' : lookup q.cells c.1 with
    | none => rw [hq', Option.getD_none, ← hpq] at h2; exact absurd h2 h3
    | some b => rw [hq', Option.getD_some] at h2; have := mem_of_lookup hq'; rwa [← h2] at this
  obtain ⟨f, l⟩ := m
  obtain ⟨f', l'⟩ := m'
  simp only at hf
  subst hf
  congr 1
  have hsub1 := key h h' rfl hr
  have hsub2 := key h' h rfl fun a => (hr a).symm
  have nd : ∀ {l : List Host.Cell}, l.Pairwise (fun p q => p.1 < q.1) → l.Nodup := fun hl =>
    hl.imp fun hlt heq => by subst heq; exact Nat.lt_irrefl _ hlt
  have hperm : l.Perm l' := (List.perm_ext_iff_of_nodup (nd h.1) (nd h'.1)).2 fun c => ⟨hsub1 c, hsub2 c⟩
  exact hperm.eq_of_pairwise (fun a b _ _ h1 h2 => absurd h1 (Nat.lt_asymm h2)) h.1 h'.1

end Memory

/-! ### Range accesses of the state -/

theorem inMemory_iff (a n : Nat) : inMemory a n = true ↔ n = 0 ∨ a + n ≤ 4096 := by simp [inMemory]

/-- All that a range read does. -/
theorem load_eq (s : State) (a n : Nat) :
    s.load a n = if n = 0 ∨ a + n ≤ 4096 then .ok (s.mem.readBytes a n) else .error (max a 4096) := by
  simp [State.load, inMemory, firstOutside]

/-- All that a range store does. -/
theorem store_eq (s : State) (a : Nat) (bs : List Byte) :
    s.store a bs = if bs.length = 0 ∨ a + bs.length ≤ 4096 then .ok (s.setMem (s.mem.writeBytes a bs))
      else .error (max a 4096) := by
  simp [State.store, inMemory, firstOutside]

end Sys2Proof.Machine
end

