-- ==== Sys2Proof/Laws/Exec.lean ====
section
/-! SUPPORT. The instructions that can fault, each as one conditional equation, and all that a step can do. -/

namespace Sys2Proof.Machine

variable (s : State)

/-! ### The call stack -/

theorem exec_ret_next {k : Nat} (hk : k < 16) (h : s.sp.val = k + 1) :
    exec .ret s = .next { s with pc := s.stack[k], sp := ⟨k, by omega⟩ } := by
  have hs : s.sp = ⟨k + 1, by omega⟩ := Fin.ext h
  have hp : s.pop = some { s with pc := s.stack[k], sp := ⟨k, by omega⟩ } := by
    unfold State.pop
    rw [hs]
  show execRet s = _
  unfold execRet
  rw [hp]

theorem exec_ret_fault (h : s.sp.val = 0) : exec .ret s = raiseIn .ret .stackUnderflow s := by
  show execRet s = _
  unfold execRet
  rw [(pop_eq_none s).2 h]

theorem exec_call_next (nnn : Addr12) (h : s.sp.val < 16) :
    exec (.call nnn) s =
      .next { s with
        stack := s.stack.set s.sp.val s.pc h, sp := ⟨s.sp.val + 1, by omega⟩, pc := immAddress nnn } := by
  have hp : s.push = some { s with stack := s.stack.set s.sp.val s.pc h, sp := ⟨s.sp.val + 1, by omega⟩ } := by
    unfold State.push
    rw [dif_pos h]
  show execCall nnn s = _
  unfold execCall
  rw [hp]
  rfl

theorem exec_call_fault (nnn : Addr12) (h : s.sp.val = 16) :
    exec (.call nnn) s = raiseIn (.call nnn) .stackOverflow s := by
  show execCall nnn s = _
  unfold execCall
  rw [(push_eq_none s).2 h]

/-! ### Range accesses -/

theorem exec_ldBVx_eq (x : Reg) :
    exec (.ldBVx x) s =
      if s.i.toNat + 2 ≤ 4095 then
        .next (s.setMem (s.mem.writeBytes s.i.toNat (decimalDigits (s.getV x))))
      else raiseIn (.ldBVx x) (.outOfBounds (max s.i.toNat 4096)) s := by
  have hl : (decimalDigits (s.getV x)).length = 3 := rfl
  show execLdBVx x s = _
  unfold execLdBVx
  rw [store_eq, hl]
  by_cases h : s.i.toNat + 2 ≤ 4095
  · rw [if_pos (by omega), if_pos h]
  · rw [if_neg (by omega), if_neg h]

theorem exec_ldMemVx_eq (x : Reg) :
    exec (.ldMemVx x) s =
      if s.i.toNat + x.val ≤ 4095 then
        .next ((s.setMem (s.mem.writeBytes s.i.toNat (s.getPrefix x))).advanceI (x.val + 1))
      else raiseIn (.ldMemVx x) (.outOfBounds (max s.i.toNat 4096)) s := by
  show execLdMemVx x s = _
  unfold execLdMemVx
  rw [store_eq, getPrefix_length]
  by_cases h : s.i.toNat + x.val ≤ 4095
  · rw [if_pos (by omega), if_pos h]
  · rw [if_neg (by omega), if_neg h]

theorem exec_ldVxMem_eq (x : Reg) :
    exec (.ldVxMem x) s =
      if s.i.toNat + x.val ≤ 4095 then
        .next ((s.setPrefix (s.mem.readBytes s.i.toNat (x.val + 1))).advanceI (x.val + 1))
      else raiseIn (.ldVxMem x) (.outOfBounds (max s.i.toNat 4096)) s := by
  show execLdVxMem x s = _
  unfold execLdVxMem
  rw [load_eq]
  by_cases h : s.i.toNat + x.val ≤ 4095
  · rw [if_pos (by omega), if_pos h]
  · rw [if_neg (by omega), if_neg h]

theorem exec_drw_eq (x y : Reg) (n : Nat) :
    exec (.drw x y n) s =
      if n = 0 ∨ s.i.toNat + n - 1 ≤ 4095 then
        .next (s.finishDraw (drawPlaces s.fb
          (spritePlaces (s.drawColumn x) (s.drawRow y) (s.mem.readBytes s.i.toNat n))))
      else raiseIn (.drw x y n) (.outOfBounds (max s.i.toNat 4096)) s := by
  show execDrw x y n s = _
  unfold execDrw
  rw [load_eq]
  by_cases h : n = 0 ∨ s.i.toNat + n - 1 ≤ 4095
  · rw [if_pos (by omega), if_pos h]
  · rw [if_neg (by omega), if_neg h]

/-! ### Keys -/

theorem exec_skp_eq (x : Reg) :
    exec (.skp x) s =
      if (s.getV x).toNat ≤ 15 then .next (s.skipIf (s.env.keys.getLsbD (s.getV x).toNat))
      else raiseIn (.skp x) (.invalidKeyIndex (s.getV x)) s := by
  show execSkp x s = _
  unfold execSkp keyOf
  by_cases h : (s.getV x).toNat ≤ 15
  · rw [dif_pos (by omega), if_pos h]
    rfl
  · rw [dif_neg (by omega), if_neg h]

theorem exec_sknp_eq (x : Reg) :
    exec (.sknp x) s =
      if (s.getV x).toNat ≤ 15 then .next (s.skipIf (!s.env.keys.getLsbD (s.getV x).toNat))
      else raiseIn (.sknp x) (.invalidKeyIndex (s.getV x)) s := by
  show execSknp x s = _
  unfold execSknp keyOf
  by_cases h : (s.getV x).toNat ≤ 15
  · rw [dif_pos (by omega), if_pos h]
    rfl
  · rw [dif_neg (by omega), if_neg h]

/-! ### What an instruction that answers a next state has done -/

theorem raise_ne_next {c : FaultCause} {a : Word} {w : Option Word} {t : State} : raise c a w s ≠ .next t := by
  simp [raise]

theorem raiseIn_ne_next {i : Instr} {c : FaultCause} {t : State} : raiseIn i c s ≠ .next t := by
  simp [raiseIn, raise]

/-- A conditional equation of this file, read from its next state. -/
theorem next_of_ite {c : Prop} [Decidable c] {t u : State} {i : Instr} {f : FaultCause}
    (h : (if c then .next u else raiseIn i f s) = Host.Outcome.next t) : c ∧ t = u := by
  split at h
  · exact ⟨‹_›, by simpa using h.symm⟩
  · exact absurd h (raiseIn_ne_next s)

/-- All that a return which answers a next state does. -/
theorem exec_ret_eq_next {t : State} (h : exec .ret s = .next t) :
    ∃ (k : Nat) (hk : k < 16), s.sp.val = k + 1 ∧ t = { s with pc := s.stack[k], sp := ⟨k, by omega⟩ } := by
  by_cases h0 : s.sp.val = 0
  · rw [exec_ret_fault s h0] at h
    exact absurd h (raiseIn_ne_next s)
  · have hk : s.sp.val - 1 < 16 := by omega
    rw [exec_ret_next s hk (by omega)] at h
    exact ⟨_, hk, by omega, by simpa using h.symm⟩

/-- All that a call which answers a next state does. -/
theorem exec_call_eq_next {t : State} {nnn : Addr12} (h : exec (.call nnn) s = .next t) :
    ∃ hk : s.sp.val < 16, t = { s with
      stack := s.stack.set s.sp.val s.pc hk, sp := ⟨s.sp.val + 1, by omega⟩, pc := immAddress nnn } := by
  by_cases h0 : s.sp.val = 16
  · rw [exec_call_fault s _ h0] at h
    exact absurd h (raiseIn_ne_next s)
  · have hk : s.sp.val < 16 := by omega
    rw [exec_call_next s _ hk] at h
    exact ⟨hk, by simpa using h.symm⟩

/-! ### The step -/

/-- All that a cycle which answers a next state does: it runs the instruction it fetched. -/
theorem cycle_eq_next {t : State} (h : cycle s = .next t) :
    s.pc.toNat + 1 < 4096 ∧ ∃ w i, s.mem.readWord s.pc.toNat = .ok w ∧ decodeWord w = .ok i ∧
      exec i (s.setPc (s.pc + 2)) = .next t := by
  unfold cycle at h
  split at h
  · exact absurd h (raise_ne_next s)
  · next w hw =>
    refine ⟨?_, ?_⟩
    · unfold Memory.readWord at hw
      split at hw
      · assumption
      · cases hw
    · split at h
      · exact absurd h (raise_ne_next _)
      · next i hi => exact ⟨w, i, hw, hi, h⟩

/-- All that a poll does. -/
theorem poll_eq_next {x : Reg} {t : State} (h : poll x s = .next t) :
    (s.env.event = .none ∧ t = s) ∨
    (∃ k, s.env.event = .keyTransition k ∧ t = (s.setV x (keyByte k)).setRun .running) ∨
    (s.env.event = .quit ∧ t = s.setRun .halted) := by
  unfold poll at h
  split at h
  · next e => exact .inl ⟨e, by simpa using h.symm⟩
  · next k e => exact .inr (.inl ⟨k, e, by simpa using h.symm⟩)
  · next e => exact .inr (.inr ⟨e, by simpa using h.symm⟩)

/-- All that a step which answers a next state does. -/
theorem step_eq_next {t : State} (h : step s = .next t) :
    (s.run = .running ∧ s.pc.toNat + 1 < 4096 ∧ ∃ w i, s.mem.readWord s.pc.toNat = .ok w ∧ decodeWord w = .ok i ∧
      exec i (s.sample.setPc (s.pc + 2)) = .next t) ∨
    (∃ x, s.run = .waitKey x ∧ poll x s.sample = .next t) := by
  unfold step at h
  split at h
  · next hr => exact .inl ⟨hr, cycle_eq_next s.sample h⟩
  · next x hx => exact .inr ⟨x, hx, h⟩
  · cases h
  · cases h

end Sys2Proof.Machine
end

