-- ==== Sys2Proof/Laws/PerInstr.lean ====
section
/-! SUPPORT. Statements made of every instruction as syntax, one lemma for each constructor. -/

namespace Sys2Proof.Laws.OpNibble

/-- The high nibble of an instruction's word is the one its row of the opcode table fixes (30_encoding.md R73, R78). -/
def Statement (i : Instr) : Prop := (encode i).toNat / 4096 = (maskMatch i).2.toNat / 4096

theorem nnn (op : BitVec 4) (a : Addr12) : BitVec.toNat (w := 16) (op ++ a) / 4096 = op.toNat := by
  have := a.isLt
  rw [nnnWord_toNat]
  omega

theorem xkk (op : BitVec 4) (x : Reg) (b : Byte) : BitVec.toNat (w := 16) (op ++ nibble x ++ b) / 4096 = op.toNat := by
  have := x.isLt
  have := b.isLt
  rw [xkkWord_toNat]
  omega

theorem xyn (op : BitVec 4) (x y : Reg) (n : BitVec 4) :
    BitVec.toNat (w := 16) (op ++ nibble x ++ nibble y ++ n) / 4096 = op.toNat := by
  have := x.isLt
  have := y.isLt
  have := n.isLt
  rw [xynWord_toNat]
  omega

theorem cls : Statement .cls := rfl
theorem ret : Statement .ret := rfl
theorem jp (a : Addr12) : Statement (.jp a) := by
  simp [Statement, encode, maskMatch, nnn]
theorem call (a : Addr12) : Statement (.call a) := by
  simp [Statement, encode, maskMatch, nnn]
theorem seVxKk (x : Reg) (b : Byte) : Statement (.seVxKk x b) := by
  simp [Statement, encode, maskMatch, xkk]
theorem sneVxKk (x : Reg) (b : Byte) : Statement (.sneVxKk x b) := by
  simp [Statement, encode, maskMatch, xkk]
theorem seVxVy (x y : Reg) : Statement (.seVxVy x y) := by
  simp [Statement, encode, maskMatch, xyn]
theorem ldVxKk (x : Reg) (b : Byte) : Statement (.ldVxKk x b) := by
  simp [Statement, encode, maskMatch, xkk]
theorem addVxKk (x : Reg) (b : Byte) : Statement (.addVxKk x b) := by
  simp [Statement, encode, maskMatch, xkk]
theorem ldVxVy (x y : Reg) : Statement (.ldVxVy x y) := by
  simp [Statement, encode, maskMatch, xyn]
theorem orVxVy (x y : Reg) : Statement (.orVxVy x y) := by
  simp [Statement, encode, maskMatch, xyn]
theorem andVxVy (x y : Reg) : Statement (.andVxVy x y) := by
  simp [Statement, encode, maskMatch, xyn]
theorem xorVxVy (x y : Reg) : Statement (.xorVxVy x y) := by
  simp [Statement, encode, maskMatch, xyn]
theorem addVxVy (x y : Reg) : Statement (.addVxVy x y) := by
  simp [Statement, encode, maskMatch, xyn]
theorem subVxVy (x y : Reg) : Statement (.subVxVy x y) := by
  simp [Statement, encode, maskMatch, xyn]
theorem shrVxVy (x y : Reg) : Statement (.shrVxVy x y) := by
  simp [Statement, encode, maskMatch, xyn]
theorem subnVxVy (x y : Reg) : Statement (.subnVxVy x y) := by
  simp [Statement, encode, maskMatch, xyn]
theorem shlVxVy (x y : Reg) : Statement (.shlVxVy x y) := by
  simp [Statement, encode, maskMatch, xyn]
theorem sneVxVy (x y : Reg) : Statement (.sneVxVy x y) := by
  simp [Statement, encode, maskMatch, xyn]
theorem ldINnn (a : Addr12) : Statement (.ldINnn a) := by
  simp [Statement, encode, maskMatch, nnn]
theorem jpV0Nnn (a : Addr12) : Statement (.jpV0Nnn a) := by
  simp [Statement, encode, maskMatch, nnn]
theorem rndVxKk (x : Reg) (b : Byte) : Statement (.rndVxKk x b) := by
  simp [Statement, encode, maskMatch, xkk]
theorem drw (x y : Reg) (n : Nat) : Statement (.drw x y n) := by
  simp [Statement, encode, maskMatch, xyn]
theorem skp (x : Reg) : Statement (.skp x) := by
  simp [Statement, encode, maskMatch, xkk]
theorem sknp (x : Reg) : Statement (.sknp x) := by
  simp [Statement, encode, maskMatch, xkk]
theorem ldVxDt (x : Reg) : Statement (.ldVxDt x) := by
  simp [Statement, encode, maskMatch, xkk]
theorem ldVxK (x : Reg) : Statement (.ldVxK x) := by
  simp [Statement, encode, maskMatch, xkk]
theorem ldDtVx (x : Reg) : Statement (.ldDtVx x) := by
  simp [Statement, encode, maskMatch, xkk]
theorem ldStVx (x : Reg) : Statement (.ldStVx x) := by
  simp [Statement, encode, maskMatch, xkk]
theorem addIVx (x : Reg) : Statement (.addIVx x) := by
  simp [Statement, encode, maskMatch, xkk]
theorem ldFVx (x : Reg) : Statement (.ldFVx x) := by
  simp [Statement, encode, maskMatch, xkk]
theorem ldBVx (x : Reg) : Statement (.ldBVx x) := by
  simp [Statement, encode, maskMatch, xkk]
theorem ldMemVx (x : Reg) : Statement (.ldMemVx x) := by
  simp [Statement, encode, maskMatch, xkk]
theorem ldVxMem (x : Reg) : Statement (.ldVxMem x) := by
  simp [Statement, encode, maskMatch, xkk]

end Sys2Proof.Laws.OpNibble
end

