-- ==== Sys2Proof/Tests/Slice0.lean ====
section
/-! SUPPORT. Tests on the vectors of spec/95_test_vectors.md (their ids stand in the docstrings), and for every statement
with hypotheses a concrete state and operands that meet them. -/

namespace Sys2Proof.Tests

open Sys2Proof.Machine

/-! ### Small states and what to look at -/

/-- The conventions of the vectors: reset, quirks off, `U` = 1000. -/
def start : State := { State.reset with quirks := ⟨false, false, false, false⟩, unitsPerSecond := 1000 }

/-- Registers set to values. -/
def regs (l : List (Reg × Byte)) (s : State) : State := l.foldl (fun s p => s.setV p.1 p.2) s

/-- Bytes stored from an address on. -/
def bytes (a : Nat) (l : List Byte) (s : State) : State := s.setMem (s.mem.writeBytes a l)

/-- The word `w` at `a`, to be fetched next. -/
def fetchAt (a w : Word) (s : State) : State := (s.setPc a).placeWord w

/-- The driver's sample for the next micro-step. -/
def given (e : Env) (s : State) : State := { s with pending := [e] }

/-- A sample with every input zero. -/
def quiet : Env := ⟨0, 0, 0, .none⟩

/-- A part of the next state. -/
def look {α : Type} (f : State → α) : Result → Option α
  | .next t => some (f t)
  | .fault _ | .refused _ => none

/-- Code, address, word and info of the report of a fault. -/
def report : Result → Option (Nat × Word × Option Word × Option Nat)
  | .fault f => f.report.map fun r => (r.code, r.addr, r.word, r.info)
  | .next _ | .refused _ => none

/-- A part of the state a fault leaves. -/
def left {α : Type} (f : State → α) : Result → Option α
  | .fault e => e.after.map f
  | .next _ | .refused _ => none

/-- The outcome is a next state. -/
def isNext : Result → Bool
  | .next _ => true
  | .fault _ | .refused _ => false

theorem next_of_isNext {r : Result} (h : isNext r = true) : ∃ t, r = .next t := by
  cases r with
  | next t => exact ⟨t, rfl⟩
  | fault _ => cases h
  | refused _ => cases h

/-- The columns of a display row that are on. -/
def litColumns (r : Fin 32) (s : State) : List (Fin 64) := (List.finRange 64).filter fun c => s.fb.get r c

/-! ### Well-formedness -/

theorem test_illFormed_drw_refused : wellFormed (.drw 0 0 16) = false := by decide
theorem test_wellFormed_drw : wellFormed (.drw 15 15 15) = true := by decide

/-! ### Decoding: the bits of the column "encoding" of the opcode table, with operand bits filled in -/

theorem test_decode_cls : decodeWord 0b0000000011100000 = .ok .cls := by decide
theorem test_decode_ret : decodeWord 0b0000000011101110 = .ok .ret := by decide
theorem test_decode_jp : decodeWord 0b0001001000000100 = .ok (.jp 0x204) := by decide
theorem test_decode_call : decodeWord 0b0010111111111111 = .ok (.call 0xFFF) := by decide
theorem test_decode_seVxKk : decodeWord 0b0011000000000111 = .ok (.seVxKk 0 0x07) := by decide
theorem test_decode_sneVxKk : decodeWord 0b0100001100001000 = .ok (.sneVxKk 3 0x08) := by decide
theorem test_decode_seVxVy : decodeWord 0b0101000100100000 = .ok (.seVxVy 1 2) := by decide
theorem test_decode_ldVxKk : decodeWord 0b0110111110101011 = .ok (.ldVxKk 15 0xAB) := by decide
theorem test_decode_addVxKk : decodeWord 0b0111000000000010 = .ok (.addVxKk 0 0x02) := by decide
theorem test_decode_ldVxVy : decodeWord 0b1000000100100000 = .ok (.ldVxVy 1 2) := by decide
theorem test_decode_or : decodeWord 0b1000000100100001 = .ok (.orVxVy 1 2) := by decide
theorem test_decode_and : decodeWord 0b1000000100100010 = .ok (.andVxVy 1 2) := by decide
theorem test_decode_xor : decodeWord 0b1000000100100011 = .ok (.xorVxVy 1 2) := by decide
theorem test_decode_addVxVy : decodeWord 0b1000000000010100 = .ok (.addVxVy 0 1) := by decide
theorem test_decode_sub : decodeWord 0b1000000000010101 = .ok (.subVxVy 0 1) := by decide
theorem test_decode_shr : decodeWord 0b1000000100100110 = .ok (.shrVxVy 1 2) := by decide
theorem test_decode_subn : decodeWord 0b1000000000010111 = .ok (.subnVxVy 0 1) := by decide
theorem test_decode_shl : decodeWord 0b1000000100101110 = .ok (.shlVxVy 1 2) := by decide
theorem test_decode_sneVxVy : decodeWord 0b1001000100100000 = .ok (.sneVxVy 1 2) := by decide
theorem test_decode_ldINnn : decodeWord 0b1010001100000000 = .ok (.ldINnn 0x300) := by decide
theorem test_decode_jpV0Nnn : decodeWord 0b1011001000010000 = .ok (.jpV0Nnn 0x210) := by decide
theorem test_decode_rnd : decodeWord 0b1100001100001111 = .ok (.rndVxKk 3 0x0F) := by decide
theorem test_decode_drw : decodeWord 0b1101111111100101 = .ok (.drw 15 14 5) := by decide
theorem test_decode_skp : decodeWord 0b1110001110011110 = .ok (.skp 3) := by decide
theorem test_decode_sknp : decodeWord 0b1110001110100001 = .ok (.sknp 3) := by decide
theorem test_decode_ldVxDt : decodeWord 0b1111111100000111 = .ok (.ldVxDt 15) := by decide
theorem test_decode_ldVxK : decodeWord 0b1111010100001010 = .ok (.ldVxK 5) := by decide
theorem test_decode_ldDtVx : decodeWord 0b1111000000010101 = .ok (.ldDtVx 0) := by decide
theorem test_decode_ldStVx : decodeWord 0b1111001000011000 = .ok (.ldStVx 2) := by decide
theorem test_decode_addIVx : decodeWord 0b1111000100011110 = .ok (.addIVx 1) := by decide
theorem test_decode_ldFVx : decodeWord 0b1111001000101001 = .ok (.ldFVx 2) := by decide
theorem test_decode_ldBVx : decodeWord 0b1111000000110011 = .ok (.ldBVx 0) := by decide
theorem test_decode_ldMemVx : decodeWord 0b1111001001010101 = .ok (.ldMemVx 2) := by decide
theorem test_decode_ldVxMem : decodeWord 0b1111001001100101 = .ok (.ldVxMem 2) := by decide

/-- X5, X6, F23, F24, A36, K13. -/
theorem test_decode_illegal :
    ([0x00E1, 0x0123, 0x00FE, 0x0230, 0xF000, 0xF01F, 0xF075, 0xF085, 0xFFFF, 0xE000, 0x5121, 0x9AB5, 0x8128, 0x812F, 0xE39F,
      0xE0A2] : List Word).all (fun w => match decodeWord w with | .ok _ => false | .error _ => true) = true := by decide

theorem test_decode_tooShort : decode [0x12] = .error .tooShort := by decide
theorem test_decodeTableWord : decodeTableWord 16 0x1204 = some (.jp 0x204) := by decide
theorem test_withFetchWord :
    look (fun t => t.getV 0) (step ((given quiet start).withFetchWord 16 0x6005)) = some 5 := by decide

/-! ### Control flow -/

/-- F3. -/
theorem test_jp : look (·.pc) (step (fetchAt 0x200 0x1203 start)) = some 0x203 := by decide
/-- F5. -/
theorem test_call :
    look (fun t => (t.stack[0], t.sp, t.pc)) (step (fetchAt 0x200 0x2206 start)) = some (0x202, 1, 0x206) := by decide
/-- F6. -/
theorem test_call_overflow :
    report (step (fetchAt 0x200 0x2206 { start with sp := 16 })) = some (2, 0x200, some 0x2206, none) := by decide
/-- F7. -/
theorem test_ret :
    look (fun t => (t.pc, t.sp)) (step (fetchAt 0x208 0x00EE { start with sp := 1, stack := start.stack.set 0 0x202 })) =
      some (0x202, 0) := by decide
/-- F8. -/
theorem test_ret_underflow :
    report (step (fetchAt 0x202 0x00EE start)) = some (3, 0x202, some 0x00EE, none) ∧
      left (fun t => (t.pc, t.sp)) (step (fetchAt 0x202 0x00EE start)) = some (0x204, 0) := by decide
/-- F9, F10. -/
theorem test_seVxKk :
    look (·.pc) (step (fetchAt 0x202 0x3007 (regs [(0, 7)] start))) = some 0x206 ∧
      look (·.pc) (step (fetchAt 0x202 0x3007 (regs [(0, 4)] start))) = some 0x204 := by decide
/-- F21. -/
theorem test_skip_past_the_end : look (·.pc) (step (fetchAt 0xFFE 0x3000 start)) = some 0x1002 := by decide
/-- F11, F12. -/
theorem test_sneVxKk :
    look (·.pc) (step (fetchAt 0x300 0x4308 (regs [(3, 7)] start))) = some 0x304 ∧
      look (·.pc) (step (fetchAt 0x300 0x4308 (regs [(3, 8)] start))) = some 0x302 := by decide
/-- F13, and two registers that differ. -/
theorem test_seVxVy :
    look (·.pc) (step (fetchAt 0x210 0x5120 (regs [(1, 9), (2, 9)] start))) = some 0x214 ∧
      look (·.pc) (step (fetchAt 0x210 0x5120 (regs [(1, 9), (2, 8)] start))) = some 0x212 := by decide
/-- F15, F16. -/
theorem test_sneVxVy :
    look (·.pc) (step (fetchAt 0x210 0x9120 (regs [(1, 1), (2, 2)] start))) = some 0x214 ∧
      look (·.pc) (step (fetchAt 0x210 0x9440 (regs [(4, 6)] start))) = some 0x212 := by decide
/-- F18, F19. -/
theorem test_jpV0Nnn :
    look (·.pc) (step (fetchAt 0x200 0xB210 (regs [(0, 4), (2, 0x10)] start))) = some 0x214 ∧
      look (·.pc) (step (fetchAt 0x200 0xB210 (regs [(0, 4), (2, 0x10)]
        { start with quirks := ⟨false, true, false, false⟩ }))) = some 0x220 := by decide
/-- F20. -/
theorem test_jpV0Nnn_is_not_masked :
    look (·.pc) (step (fetchAt 0x200 0xBFFF (regs [(0, 0xFF)] start))) = some 0x10FE := by decide

/-! ### Registers and arithmetic -/

/-- A2. -/
theorem test_ldVxKk : look (·.getV vf) (step (fetchAt 0x200 0x6FAB start)) = some 0xAB := by decide
/-- A3. -/
theorem test_addVxKk :
    look (fun t => (t.getV 0, t.getV vf)) (step (fetchAt 0x200 0x7002 (regs [(0, 0xFF)] start))) = some (0x01, 0) := by decide
/-- A28. -/
theorem test_ldVxVy :
    look (·.getV vf) (step (fetchAt 0x200 0x8F10 (regs [(15, 5), (1, 0xAA)] start))) = some 0xAA := by decide
/-- A6. -/
theorem test_or :
    look (fun t => (t.getV 1, t.getV vf)) (step (fetchAt 0x200 0x8121 (regs [(1, 0xF0), (2, 0x0F), (15, 7)] start))) =
      some (0xFF, 7) := by decide
/-- A7. -/
theorem test_and :
    look (·.getV 1) (step (fetchAt 0x200 0x8122 (regs [(1, 0xF0), (2, 0x3C)] start))) = some 0x30 := by decide
/-- A7. -/
theorem test_xor :
    look (·.getV 1) (step (fetchAt 0x200 0x8123 (regs [(1, 0xF0), (2, 0x3C)] start))) = some 0xCC := by decide
/-- A10. -/
theorem test_addVxVy :
    look (fun t => (t.getV 0, t.getV vf)) (step (fetchAt 0x200 0x8014 (regs [(0, 0xFE), (1, 0x01)] start))) =
      some (0xFF, 0) := by decide
/-- A20. -/
theorem test_addVxVy_into_vf :
    look (fun t => (t.getV vf, t.getV 1)) (step (fetchAt 0x200 0x8F14 (regs [(15, 0xFF), (1, 2)] start))) =
      some (1, 2) := by decide
/-- A14. -/
theorem test_sub :
    look (fun t => (t.getV 0, t.getV vf)) (step (fetchAt 0x200 0x8015 (regs [(0, 5), (1, 7)] start))) =
      some (0xFE, 0) := by decide
/-- A22. -/
theorem test_sub_into_vf :
    look (·.getV vf) (step (fetchAt 0x200 0x8F15 (regs [(15, 5), (1, 5)] start))) = some 1 := by decide
/-- A29. -/
theorem test_shr :
    look (fun t => (t.getV 1, t.getV vf, t.getV 2)) (step (fetchAt 0x200 0x8126 (regs [(1, 5), (2, 8)] start))) =
      some (2, 1, 8) := by decide
/-- A30. -/
theorem test_shr_quirk :
    look (fun t => (t.getV 1, t.getV vf, t.getV 2)) (step (fetchAt 0x200 0x8126 (regs [(1, 5), (2, 8)]
      { start with quirks := ⟨true, false, false, false⟩ }))) = some (4, 0, 8) := by decide
/-- A18. -/
theorem test_subn :
    look (fun t => (t.getV 0, t.getV vf)) (step (fetchAt 0x200 0x8017 (regs [(0, 7), (1, 5)] start))) =
      some (0xFE, 0) := by decide
/-- A24. -/
theorem test_subn_into_vf :
    look (·.getV vf) (step (fetchAt 0x200 0x8F17 (regs [(15, 5), (1, 7)] start))) = some 1 := by decide
/-- A31. -/
theorem test_shl :
    look (fun t => (t.getV 1, t.getV vf)) (step (fetchAt 0x200 0x812E (regs [(1, 0x81), (2, 0x40)] start))) =
      some (2, 1) := by decide
/-- A27. -/
theorem test_shl_vf : look (·.getV vf) (step (fetchAt 0x200 0x8FFE (regs [(15, 0x80)] start))) = some 1 := by decide
/-- A33. -/
theorem test_rnd :
    look (·.getV 3) (step (fetchAt 0x200 0xC30F (given { quiet with rnd := 0xA7 } start))) = some 0x07 := by decide

/-! ### Index register and memory -/

/-- M1. -/
theorem test_ldINnn : look (·.i) (step (fetchAt 0x200 0xA300 start)) = some 0x300 := by decide
/-- M6, both settings. -/
theorem test_addIVx :
    look (fun t => (t.i, t.getV vf)) (step (fetchAt 0x200 0xFF1E (regs [(15, 3)] (start.setI 0xFFE)))) =
        some (0x1001, 3) ∧
      look (fun t => (t.i, t.getV vf)) (step (fetchAt 0x200 0xFF1E (regs [(15, 3)]
        ({ start with quirks := ⟨false, false, true, false⟩ }.setI 0xFFE)))) = some (0x1001, 1) := by decide
/-- M5: in range, `VF` is not cleared. -/
theorem test_addIVx_in_range :
    look (fun t => (t.i, t.getV vf)) (step (fetchAt 0x200 0xF01E (regs [(0, 1), (15, 7)]
      ({ start with quirks := ⟨false, false, true, false⟩ }.setI 0xFFE)))) = some (0xFFF, 7) := by decide
/-- M7, M8. -/
theorem test_ldFVx :
    look (·.i) (step (fetchAt 0x200 0xF229 (regs [(2, 0x1A)] start))) = some 0x082 ∧
      look (·.i) (step (fetchAt 0x200 0xF329 (regs [(3, 0xFF)] start))) = some 0x09B := by decide
/-- M10. -/
theorem test_ldBVx :
    look (fun t => (t.mem.readBytes 0xFFD 3, t.i)) (step (fetchAt 0x200 0xF033 (regs [(0, 0xFF)] (start.setI 0xFFD)))) =
      some ([2, 5, 5], 0xFFD) := by decide
/-- M11. -/
theorem test_ldBVx_outOfBounds :
    report (step (fetchAt 0x200 0xF033 (regs [(0, 0xFF)] (start.setI 0xFFE)))) =
      some (4, 0x200, some 0xF033, some 0x1000) := by decide
/-- M13. -/
theorem test_ldMemVx :
    look (fun t => (t.mem.readBytes 0x400 4, t.i))
        (step (fetchAt 0x200 0xF255 (regs [(0, 2), (1, 5), (2, 4), (3, 9)] (start.setI 0x400)))) =
      some ([2, 5, 4, 0], 0x400) := by decide
/-- M14. -/
theorem test_ldMemVx_increment :
    look (·.i) (step (fetchAt 0x200 0xFF55 ({ start with quirks := ⟨false, false, false, true⟩ }.setI 0xFF0))) =
      some 0x1000 := by decide
/-- M16. -/
theorem test_ldVxMem :
    look (fun t => (t.getV 0, t.getV 1, t.getV 2, t.getV 3, t.i))
        (step (fetchAt 0x200 0xF265 (regs [(3, 9)] (bytes 0x300 [2, 5, 4, 1] (start.setI 0x300))))) =
      some (2, 5, 4, 9, 0x300) := by decide
/-- M17. -/
theorem test_ldVxMem_outOfBounds :
    report (step (fetchAt 0x200 0xF065 (start.setI 0x1001))) = some (4, 0x200, some 0xF065, some 0x1001) := by decide
/-- A byte written back to what the address reads as unlisted leaves no entry. -/
theorem test_write_is_canonical : ((start.mem.write 0x300 7).write 0x300 0).cells = [] := by decide
theorem test_reset_memory_wf : State.reset.mem.wf := Memory.initial_wf _

/-! ### Display -/

/-- G14. -/
theorem test_cls :
    look (fun t => (litColumns 0 t, t.display))
        (step (fetchAt 0x200 0x00E0 (start.setFb (Frame.off.put 0 5 true)))) = some ([], [.clear]) := by decide
/-- G8, with the commands of R172 written out. -/
theorem test_drw :
    look (fun t => (litColumns 0 t, t.getV vf, t.display))
        (step (fetchAt 0x200 0xD001 (bytes 0x300 [0x3C] ((start.setI 0x300).setFb
          ((((Frame.off.put 0 0 true).put 0 1 true).put 0 2 true).put 0 3 true))))) =
      some ([0, 1, 4, 5], 1, [.getPixel 0 2, .setPixel 0 2 false, .getPixel 0 3, .setPixel 0 3 false, .getPixel 0 4,
        .setPixel 0 4 true, .getPixel 0 5, .setPixel 0 5 true, .present]) := by decide
/-- G6: the origin row 30, clipped below; nothing in row 0. -/
theorem test_drw_clips :
    look (fun t => (litColumns 30 t, litColumns 31 t, litColumns 0 t, t.getV vf))
        (step (fetchAt 0x200 0xD013 (regs [(1, 0x1E)] (bytes 0x300 [0xFF, 0x81, 0xFF] (start.setI 0x300))))) =
      some ([0, 1, 2, 3, 4, 5, 6, 7], [0, 7], [], 0) := by decide

/-! ### Keypad -/

/-- K1, K2. -/
theorem test_skp :
    look (·.pc) (step (fetchAt 0x220 0xE39E (regs [(3, 0x0A)] (given { quiet with keys := 0x0400 } start)))) = some 0x224 ∧
      look (·.pc) (step (fetchAt 0x220 0xE39E (regs [(3, 0x0A)] (given quiet start)))) = some 0x222 := by decide
/-- K5. -/
theorem test_skp_no_such_key :
    report (step (fetchAt 0x202 0xE39E (regs [(3, 0x10)] start))) = some (5, 0x202, some 0xE39E, some 16) := by decide
/-- K3, K4. -/
theorem test_sknp :
    look (·.pc) (step (fetchAt 0x220 0xE3A1 (regs [(3, 0x0A)] (given quiet start)))) = some 0x224 ∧
      look (·.pc) (step (fetchAt 0x220 0xE3A1 (regs [(3, 0x0A)] (given { quiet with keys := 0x0400 } start)))) =
        some 0x222 := by decide
/-- K6. -/
theorem test_sknp_no_such_key :
    report (step (fetchAt 0x202 0xE3A1 (regs [(3, 0xFF)] start))) = some (5, 0x202, some 0xE3A1, some 255) := by decide
/-- K7. -/
theorem test_ldVxK :
    look (fun t => (t.run, t.pc, t.getV 5)) (step (fetchAt 0x200 0xF50A start)) = some (.waitKey 5, 0x202, 0) := by decide
/-- K8, K10, K11. -/
theorem test_poll :
    look (fun t => (t.run, t.getV 5)) (step (given quiet (start.setRun (.waitKey 5)))) = some (.waitKey 5, 0) ∧
      look (fun t => (t.run, t.getV 5)) (step (given { quiet with event := .keyTransition 7 } (start.setRun (.waitKey 5)))) =
        some (.running, 7) ∧
      look (fun t => (t.run, t.getV 5)) (step (given { quiet with event := .quit } (start.setRun (.waitKey 5)))) =
        some (.halted, 0) := by decide

/-! ### Timers -/

/-- T16. -/
theorem test_ldVxDt :
    look (·.getV vf) (step (fetchAt 0x200 0xFF07 (given { quiet with now := 117 } { start with dt := ⟨255, 100⟩ }))) =
      some 0xFE := by decide
/-- T1 to T9. -/
theorem test_displayed :
    ([100, 116, 117, 133, 134, 4349, 4350, 1000000, 50] : List Nat).map ((⟨255, 100⟩ : Timer).displayed 1000) =
      [255, 255, 254, 254, 253, 1, 0, 0, 255] := by decide
/-- T15. -/
theorem test_ldDtVx :
    look (·.dt) (step (fetchAt 0x200 0xF015 (given { quiet with now := 1000 } (regs [(0, 10)] { start with dt := ⟨200, 0⟩ })))) =
      some ⟨10, 1000⟩ := by decide
/-- T13. -/
theorem test_ldStVx :
    look (fun t => (t.st, t.stVal 5250, t.stVal 5500))
        (step (fetchAt 0x200 0xF218 (given { quiet with now := 5000 } (regs [(2, 30)] start)))) =
      some (⟨30, 5000⟩, 15, 0) := by decide

/-! ### Fetch and decode faults -/

/-- X2, X3. -/
theorem test_fetch_outOfBounds :
    report (step (start.setPc 0xFFF)) = some (4, 0xFFF, none, some 0x1000) ∧
      report (step (start.setPc 0x1000)) = some (4, 0x1000, none, some 0x1000) := by decide
/-- X4. -/
theorem test_decodeError :
    report (step (start.setPc 0x206)) = some (1, 0x206, some 0x0000, none) ∧
      left (·.pc) (step (start.setPc 0x206)) = some 0x208 := by decide

/-! ### Every hypothesis is met: encoding and the micro-step -/

theorem witness_DecodingAnEncodedInstructionGivesItBack : wellFormed (.drw 15 0 15) = true := by decide

theorem witness_EncodingADecodedWordGivesItBack : decodeWord 0xFF65 = .ok (.ldVxMem 15) := by decide

/-- A row's hypotheses for the three parts. -/
theorem witness_AWordIsAnInstructionExactlyWhenItMatchesItsRow :
    decodeWord 0x8FFE = .ok (.shlVxVy 15 15) ∧ (0xF00F, 0x800E) ∈ opcodeRows ∧
      (0x8FFE : Word) &&& 0xF00F = 0x800E := by decide

/-- At the last address a word fits. -/
theorem witness_AStepRunsTheDecodedInstruction :
    ∃ (s : State) (i : Instr), s.run = .running ∧ s.pc.toNat + 1 < 4096 ∧
      decodeWord (joinBytes (s.mem.read s.pc.toNat) (s.mem.read (s.pc.toNat + 1))) = .ok i :=
  ⟨fetchAt 0xFFE 0x6005 start, .ldVxKk 0 5, by decide⟩

/-- The two sides of the bound, and both addresses outside. -/
theorem witness_TheFetchReadsTwoBytesOrFaults :
    (∃ (s : State) (i : Instr), s.run = .running ∧ s.pc.toNat + 1 ≤ 4095 ∧
      decodeWord (BitVec.ofNat 16 ((s.mem.read s.pc.toNat).toNat * 256 + (s.mem.read (s.pc.toNat + 1)).toNat)) = .ok i) ∧
    (∃ s : State, s.run = .running ∧ s.pc.toNat = 4095 ∧ s.pc.toNat + 1 > 4095) ∧
    ∃ s : State, s.run = .running ∧ s.pc.toNat = 4096 ∧ s.pc.toNat + 1 > 4095 :=
  ⟨⟨fetchAt 0xFFE 0x6005 start, .ldVxKk 0 5, by decide⟩, ⟨start.setPc 0xFFF, by decide⟩, ⟨start.setPc 0x1000, by decide⟩⟩

theorem witness_AnIllegalWordIsADecodeError :
    ∃ (s : State) (w : Word) (e : Reject), s.run = .running ∧ s.pc.toNat + 1 < 4096 ∧
      joinBytes (s.mem.read s.pc.toNat) (s.mem.read (s.pc.toNat + 1)) = w ∧ decodeWord w = .error e :=
  ⟨fetchAt 0xFFE 0x812F start, 0x812F, .illegal8 0x812F, by decide⟩

theorem witness_HaltedAndFaultedHaveNoStep :
    (∃ s : State, s.run = .halted) ∧ ∃ (s : State) (c : FaultCause), s.run = .faulted c :=
  ⟨⟨start.setRun .halted, rfl⟩, ⟨start.setRun (.faulted .stackOverflow), .stackOverflow, rfl⟩⟩

theorem witness_APollFollowsTheReportedEvent :
    (∃ s : State, s.run = .waitKey 15 ∧ s.nextEnv.event = .none) ∧
    (∃ s : State, s.run = .waitKey 15 ∧ s.nextEnv.event = .keyTransition 15) ∧
    ∃ s : State, s.run = .waitKey 15 ∧ s.nextEnv.event = .quit :=
  ⟨⟨given quiet (start.setRun (.waitKey 15)), by decide⟩,
    ⟨given { quiet with event := .keyTransition 15 } (start.setRun (.waitKey 15)), by decide⟩,
    ⟨given { quiet with event := .quit } (start.setRun (.waitKey 15)), by decide⟩⟩

theorem witness_EveryMicroStepReportsItsOutcome :
    start.run = .running ∧ ∃ x, (start.setRun (.waitKey 3)).run = .waitKey x := ⟨rfl, 3, rfl⟩

/-- A supplied sample, and none. -/
theorem witness_EveryMicroStepTakesOneSample :
    (∃ (s t : State) (e : Env) (rest : List Env), step s = .next t ∧ s.pending = e :: rest) ∧
    ∃ s t : State, step s = .next t ∧ s.pending = [] := by
  obtain ⟨t, ht⟩ := next_of_isNext (r := step (given quiet (fetchAt 0x200 0x6005 start))) (by decide)
  obtain ⟨u, hu⟩ := next_of_isNext (r := step (fetchAt 0x200 0x6005 start)) (by decide)
  exact ⟨⟨_, t, quiet, [], ht, rfl⟩, ⟨_, u, hu, rfl⟩⟩

/-- A state of the invariant with a live frame, about to call. -/
theorem witness_EveryStepKeepsTheInvariant : ∃ s t : State, s.Inv ∧ step s = .next t := by
  obtain ⟨t, ht⟩ := next_of_isNext
    (r := step (fetchAt 0x200 0x2300 { start with sp := 1, stack := start.stack.set 0 0x1000 })) (by decide)
  exact ⟨_, t, ⟨by decide, by decide, by unfold State.framesInRange; decide, by decide⟩, ht⟩

theorem witness_TheConfigurationIsConstant : ∃ s t : State, step s = .next t := by
  obtain ⟨t, ht⟩ := next_of_isNext (r := step (fetchAt 0x200 0x6005 start)) (by decide)
  exact ⟨_, t, ht⟩

theorem witness_ASelfJumpChangesOnlyTheSampleAndTheDisplayRecord : ∃ s : State, s.atSelfJump :=
  ⟨fetchAt 0x20C 0x120C start, rfl, 0x120C, 0x20C, by rfl, by decide, by decide⟩

/-! ### Every hypothesis is met: faults and control transfer -/

/-- Each cause at the boundary of its condition, and no cause one before it. -/
theorem witness_AnInstructionFaultsExactlyAsTheTableSays :
    (faultCause .ret start = some .stackUnderflow ∧ faultCause .ret { start with sp := 1 } = none) ∧
    (faultCause (.call 0) { start with sp := 16 } = some .stackOverflow ∧ faultCause (.call 0) { start with sp := 15 } = none) ∧
    (faultCause (.drw 0 0 2) (start.setI 0xFFF) = some (.outOfBounds 0x1000) ∧
      faultCause (.drw 0 0 1) (start.setI 0xFFF) = none ∧ faultCause (.drw 0 0 0) (start.setI 0x1008) = none) ∧
    (faultCause (.ldBVx 0) (start.setI 0xFFE) = some (.outOfBounds 0x1000) ∧
      faultCause (.ldBVx 0) (start.setI 0xFFD) = none) ∧
    (faultCause (.ldMemVx 15) (start.setI 0xFF1) = some (.outOfBounds 0x1000) ∧
      faultCause (.ldMemVx 15) (start.setI 0xFF0) = none) ∧
    (faultCause (.ldVxMem 0) (start.setI 0x1001) = some (.outOfBounds 0x1001) ∧
      faultCause (.ldVxMem 0) (start.setI 0xFFF) = none) ∧
    (faultCause (.skp 3) (regs [(3, 16)] start) = some (.invalidKeyIndex 16) ∧
      faultCause (.skp 3) (regs [(3, 15)] start) = none) := by decide

/-- The first and the last frame, and none. -/
theorem witness_ReturnPopsTheNewestFrame :
    (∃ (s : State) (k : Fin 16), k = 0 ∧ s.sp.val = k.val + 1) ∧
    (∃ (s : State) (k : Fin 16), k = 15 ∧ s.sp.val = k.val + 1) ∧ ∃ s : State, s.sp.val = 0 :=
  ⟨⟨{ start with sp := 1 }, 0, rfl, rfl⟩, ⟨{ start with sp := 16 }, 15, rfl, rfl⟩, ⟨start, rfl⟩⟩

/-- The first and the last free slot, and none. -/
theorem witness_CallPushesTheAddressAfterIt :
    (∃ (s : State) (k : Fin 16), k = 0 ∧ s.sp.val = k.val) ∧
    (∃ (s : State) (k : Fin 16), k = 15 ∧ s.sp.val = k.val) ∧ ∃ s : State, s.sp.val = 16 :=
  ⟨⟨start, 0, rfl, rfl⟩, ⟨{ start with sp := 15 }, 15, rfl, rfl⟩, ⟨{ start with sp := 16 }, rfl⟩⟩

theorem witness_ReturnAfterCallResumesAfterTheCall :
    ∃ (s t u : State) (nnn : Addr12), exec (.call nnn) s = .next t ∧ u.sp = t.sp ∧ u.stack = t.stack := by
  obtain ⟨t, ht⟩ := next_of_isNext (r := exec (.call 0x206) { start with sp := 15 }) (by decide)
  exact ⟨_, t, t.setV 0 1, _, ht, rfl, rfl⟩

theorem witness_OffsetJumpAddsTheSelectedRegister :
    (∃ s : State, s.quirks.jump = false) ∧
    ∃ (s : State) (nnn : Addr12) (x : Reg), s.quirks.jump = true ∧ x = 15 ∧ x.val = nnn.toNat / 256 :=
  ⟨⟨start, rfl⟩, ⟨{ start with quirks := ⟨false, true, false, false⟩ }, 0xFFF, 15, rfl, rfl, rfl⟩⟩

/-! ### Every hypothesis is met: registers, index register, memory -/

/-- Bit numbers at both ends. -/
theorem witness_LogicWorksBitByBitAndSetsNoFlag : 0 < 8 ∧ 7 < 8 := by decide

theorem witness_AddSetsTheCarryFlag : (14 : Reg) ≠ vf := by decide

theorem witness_SubtractionsSetTheNoBorrowFlag : (0 : Reg) ≠ vf := by decide

/-- Both settings, with a result register that is not `VF`. -/
theorem witness_ShiftsMoveOneBitIntoTheFlag :
    (1 : Reg) ≠ vf ∧
    (∃ b : Byte, b = if start.quirks.shift then start.getV 2 else start.getV 1) ∧
    ∃ s : State, s.quirks.shift = true ∧ ∃ b : Byte, b = if s.quirks.shift then s.getV 2 else s.getV 1 :=
  ⟨by decide, ⟨_, rfl⟩, { start with quirks := ⟨true, false, false, false⟩ }, rfl, _, rfl⟩

theorem witness_RandomByteIsMasked : 0 < 8 ∧ 7 < 8 := by decide

theorem witness_OnlyTheListedInstructionsWriteVF :
    ∃ (i : Instr) (s t : State), exec i s = .next t ∧ writesVF i = false := by
  obtain ⟨t, ht⟩ := next_of_isNext (r := exec (.ldVxMem 14) start) (by decide)
  exact ⟨_, _, t, ht, by decide⟩

/-- The last index at which the bytes lie in memory. -/
theorem witness_DecimalDigitsAreStoredAtTheIndex : (start.setI 0xFFD).i.toNat + 2 = 4095 := by decide

theorem witness_BulkStoreWritesThePrefix :
    (start.setI 0xFF0).i.toNat + (15 : Reg).val = 4095 ∧ (0 : Reg) ≤ 15 ∧ (15 : Reg) ≤ 15 := by decide

theorem witness_BulkLoadReadsThePrefix :
    (start.setI 0xFFF).i.toNat + (0 : Reg).val = 4095 ∧ (0 : Reg) ≤ 0 := by decide

theorem witness_StoreThenLoadRestoresTheRegisters :
    ∃ (s t u : State) (x : Reg), exec (.ldMemVx x) s = .next t ∧ u.mem = t.mem ∧ u.i = s.i := by
  obtain ⟨t, ht⟩ := next_of_isNext (r := exec (.ldMemVx 2) (start.setI 0x400)) (by decide)
  exact ⟨_, t, { t with i := 0x400, v := start.v }, _, ht, rfl, rfl⟩

theorem witness_OnlyTheListedInstructionsWriteTheIndex :
    ∃ (i : Instr) (s t : State), exec i s = .next t ∧ writesIndex i = false := by
  obtain ⟨t, ht⟩ := next_of_isNext (r := exec (.ldBVx 0) start) (by decide)
  exact ⟨_, _, t, ht, by decide⟩

/-- The last address of memory and the first outside it. -/
theorem witness_OneByteIsReadAndWritten : (4095 : Nat) ≤ 4095 ∧ (4096 : Nat) > 4095 := by decide

theorem witness_AStoreIsSeenByTheNextFetch :
    ∃ (s t : State) (x k k' : Reg), exec (.ldMemVx x) s = .next t ∧ k < x ∧ k'.val = k.val + 1 := by
  obtain ⟨t, ht⟩ := next_of_isNext (r := exec (.ldMemVx 1) (start.setI 0xFFE)) (by decide)
  exact ⟨_, t, 1, 0, 1, ht, by decide, rfl⟩

theorem witness_OnlyTwoInstructionsStore :
    ∃ (i : Instr) (s t : State), exec i s = .next t ∧ (∀ x, i ≠ .ldBVx x) ∧ ∀ x, i ≠ .ldMemVx x := by
  obtain ⟨t, ht⟩ := next_of_isNext (r := exec (.ldVxMem 3) start) (by decide)
  exact ⟨_, _, t, ht, by simp, by simp⟩

theorem witness_OnlyCallWritesTheStack :
    ∃ (i : Instr) (s t : State), exec i s = .next t ∧ (∀ nnn, i ≠ .call nnn) ∧ i ≠ .ret := by
  obtain ⟨t, ht⟩ := next_of_isNext (r := exec (.jp 3) start) (by decide)
  exact ⟨_, _, t, ht, by simp, by simp⟩

/-! ### Every hypothesis is met: display, keypad, timers, reset -/

/-- An empty sprite anywhere, a sprite at the end of memory; a collision and none. -/
theorem witness_DrawTogglesTheSpriteBits :
    (0 = 0 ∨ (start.setI 0x1008).i.toNat + 0 - 1 ≤ 4095) ∧ (start.setI 0xFFF).i.toNat + 1 - 1 = 4095 ∧
    (∃ (r : Fin 32) (c : Fin 64), (Frame.off.put 31 63 true).get r c = true ∧ spriteBit [0x80] 63 31 r.val c.val = true) ∧
    ¬ ∃ (r : Fin 32) (c : Fin 64), Frame.off.get r c = true ∧ spriteBit [0x80] 63 31 r.val c.val = true := by
  refine ⟨by decide, by decide, ⟨31, 63, by decide⟩, ?_⟩
  rintro ⟨r, c, h, -⟩
  simp [Frame.off, Frame.get] at h

/-- An empty sprite anywhere and a sprite at the end of memory, at an origin that clips. -/
theorem witness_DrawIssuesItsPixelCommandsInOrder :
    (0 = 0 ∨ (start.setI 0x1008).i.toNat + 0 - 1 ≤ 4095) ∧
    ∃ (s : State) (x y : Reg) (n x0 y0 : Nat), (n = 0 ∨ s.i.toNat + n - 1 ≤ 4095) ∧ s.i.toNat + n - 1 = 4095 ∧
      x0 = (s.getV x).toNat % 64 ∧ y0 = (s.getV y).toNat % 32 ∧ x0 = 63 ∧ y0 = 31 :=
  ⟨by decide, regs [(0, 0xFF), (1, 0x3F)] (start.setI 0xFF1), 0, 1, 15, 63, 31, by decide⟩

theorem witness_OnlyDrawPresentsAndExactlyOnce :
    (∃ (s t : State) (x y : Reg) (n : Nat) (i : Instr), exec i s = .next t ∧ i = .drw x y n) ∧
    ∃ (i : Instr) (s t : State), exec i s = .next t ∧ ∀ x y n, i ≠ .drw x y n := by
  obtain ⟨t, ht⟩ := next_of_isNext (r := exec (.drw 0 0 15) start) (by decide)
  obtain ⟨u, hu⟩ := next_of_isNext (r := exec .cls start) (by decide)
  exact ⟨⟨_, t, 0, 0, 15, _, ht, rfl⟩, ⟨_, _, u, hu, by simp⟩⟩

/-- A sprite that shows, on a display that is off: all hypotheses together. -/
theorem witness_DrawingTwiceRestoresTheDisplay :
    ∃ (s t : State) (x y : Reg) (n : Nat) (bit : Nat → Nat → Bool), x ≠ vf ∧ y ≠ vf ∧ exec (.drw x y n) s = .next t ∧
      bit = spriteBit (s.mem.readBytes s.i.toNat n) ((s.getV x).toNat % 64) ((s.getV y).toNat % 32) ∧
      (∀ (r : Fin 32) (c : Fin 64), bit r.val c.val = true → s.fb.get r c = false) ∧
      ∃ (r : Fin 32) (c : Fin 64), bit r.val c.val = true := by
  obtain ⟨t, ht⟩ := next_of_isNext (r := exec (.drw 0 1 1) (start.setI 0x050)) (by decide)
  refine ⟨_, t, 0, 1, 1, _, by decide, by decide, ht, rfl, ?_, 0, 0, by decide⟩
  intro r c _
  simp [start, State.reset, Frame.off, Frame.get]

theorem witness_OnlyDisplayInstructionsChangeThePixels :
    ∃ (i : Instr) (s t : State), exec i s = .next t ∧ i ≠ .cls ∧ ∀ x y n, i ≠ .drw x y n := by
  obtain ⟨t, ht⟩ := next_of_isNext (r := exec (.jp 3) start) (by decide)
  exact ⟨_, _, t, ht, by simp, by simp⟩

theorem witness_KeySkipsFollowTheKeyState : ((regs [(3, 15)] start).getV 3).toNat = 15 := by decide

theorem witness_OnlyTheirInstructionsSetTheTimers :
    ∃ (i : Instr) (s t : State), exec i s = .next t ∧ (∀ x, i ≠ .ldDtVx x) ∧ ∀ x, i ≠ .ldStVx x := by
  obtain ⟨t, ht⟩ := next_of_isNext (r := exec (.ldVxDt 3) start) (by decide)
  exact ⟨_, _, t, ht, by simp, by simp⟩

/-- The clock at the set time, and before it. -/
theorem witness_DelayTimerIsReadAtTheTimeOfTheStep :
    (∃ s : State, s.dt.setTime = s.env.now) ∧ ∃ s : State, s.env.now < s.dt.setTime :=
  ⟨⟨start, rfl⟩, { start with dt := ⟨255, 1⟩ }, by decide⟩

/-- Both timers; times before, at and after the set time; the bound itself. -/
theorem witness_ADisplayedTimerDecaysToZero :
    (∃ (s : State) (d : Timer) (val : Nat → Nat), 0 < s.unitsPerSecond ∧ d = s.dt ∧ val = s.dtVal) ∧
    (∃ (s : State) (d : Timer) (val : Nat → Nat), 0 < s.unitsPerSecond ∧ d = s.st ∧ val = s.stVal) ∧
    99 ≤ 100 ∧ (99 ≤ (⟨255, 100⟩ : Timer).setTime) ∧ (⟨255, 100⟩ : Timer).setTime ≤ 100 ∧
      (⟨255, 100⟩ : Timer).setTime + ((⟨255, 100⟩ : Timer).setValue.toNat * start.unitsPerSecond + 59) / 60 ≤ 4350 :=
  ⟨⟨start, _, _, by decide, rfl, rfl⟩, ⟨start, _, _, by decide, rfl, rfl⟩, by decide⟩

/-- Both timers; with `U` = 1000 the last time before the first tick; with `U` = 60 a whole unit to the tick. -/
theorem witness_ATimerLosesOneEachTickAfterItIsSet :
    (∃ (i : Instr) (val : State → Nat → Nat), i = .ldDtVx 0 ∧ val = State.dtVal) ∧
    (∃ (i : Instr) (val : State → Nat → Nat), i = .ldStVx 0 ∧ val = State.stVal) ∧
    0 < start.unitsPerSecond ∧ 16 * 60 < start.unitsPerSecond ∧
    ∃ (s : State) (p : Nat), 0 < s.unitsPerSecond ∧ s.unitsPerSecond = 60 * p :=
  ⟨⟨_, _, rfl, rfl⟩, ⟨_, _, rfl, rfl⟩, by decide, by decide, { start with unitsPerSecond := 60 }, 1, by decide, rfl⟩

/-- The empty image, the longest that fits and one byte more. -/
theorem witness_AnImageIsLoadedAtTheProgramBase :
    0 < 1 ∧ ([] : List Byte).length ≤ 3584 ∧ (List.replicate 3584 (0 : Byte)).length = 3584 ∧
      (List.replicate 3585 (0 : Byte)).length > 3584 ∧ (∃ k, k < (List.replicate 3584 (0 : Byte)).length) :=
  ⟨by decide, by decide, List.length_replicate, by rw [List.length_replicate]; decide,
    0, by rw [List.length_replicate]; decide⟩

/-- Samples that differ in all but what the instruction reads. -/
theorem witness_EachInputIsReadByItsInstructionsOnly :
    ∃ (i : Instr) (s t : State) (e : Env), e ≠ s.env ∧ agreeFor i s.env e ∧ exec i s = .next t :=
  ⟨.rndVxKk 0 0xFF, start, _, ⟨1, 0, 1, .quit⟩, by decide, rfl, rfl⟩

/-- The three ways not to depend on the quirks. -/
theorem witness_TheQuirksSelectInSixInstructionsOnly :
    (∃ s t : State, exec .cls s = .next t ∧ quirkDependent .cls = false) ∧
    (∃ (s t : State) (x : Reg), exec (.shrVxVy x x) s = .next t) ∧
    ∃ (s t : State) (nnn : Addr12), exec (.jpV0Nnn nnn) s = .next t ∧ nnn.toNat = 255 :=
  ⟨⟨start, _, rfl, rfl⟩, ⟨start, _, 15, rfl⟩, ⟨start, _, 0x0FF, rfl, rfl⟩⟩

end Sys2Proof.Tests
end

section
/-! Jumps and skips (40_control_flow.md): what an instruction that writes `PC` alone changes, and the obligations on it. -/

namespace Sys2Proof.Machine

/-! ### Rules of the operations -/

/-- The address of a jump is `nnn` itself: 12 bits fit in `PC`. -/
@[simp] theorem immAddress_toNat (nnn : Addr12) : (immAddress nnn).toNat = nnn.toNat :=
  BitVec.toNat_setWidth_of_le (by decide)

theorem onlyPc_refl (s : State) : OnlyPc s s :=
  ⟨fun _ => rfl, rfl, fun _ => rfl, ⟨fun _ _ => rfl, rfl⟩, ⟨rfl, rfl⟩, ⟨rfl, rfl⟩, rfl, rfl, rfl, rfl, rfl, rfl, rfl⟩

/-- `OnlyPc` does not speak of `PC`, the one field that `setPc` writes. -/
theorem onlyPc_setPc (s : State) (w : Word) : OnlyPc s (s.setPc w) :=
  onlyPc_refl s

theorem onlyPc_skipIf (s : State) (c : Bool) : OnlyPc s (s.skipIf c) := by
  cases c with
  | false => exact onlyPc_refl s
  | true => exact onlyPc_setPc s _

/-! ### The instructions, each as one equation -/

theorem exec_jp_eq (s : State) (nnn : Addr12) : exec (.jp nnn) s = .next (s.setPc (immAddress nnn)) := rfl

theorem exec_seVxKk_eq (s : State) (x : Reg) (kk : Byte) :
    exec (.seVxKk x kk) s = .next (s.skipIf (s.getV x == kk)) := rfl

theorem exec_sneVxKk_eq (s : State) (x : Reg) (kk : Byte) :
    exec (.sneVxKk x kk) s = .next (s.skipIf (s.getV x != kk)) := rfl

theorem exec_seVxVy_eq (s : State) (x y : Reg) :
    exec (.seVxVy x y) s = .next (s.skipIf (s.getV x == s.getV y)) := rfl

theorem exec_sneVxVy_eq (s : State) (x y : Reg) :
    exec (.sneVxVy x y) s = .next (s.skipIf (s.getV x != s.getV y)) := rfl

/-- What every skip instruction does (40_control_flow.md R100): once its equation gives the tested bit `c`, it moves `PC` by 2
exactly where the condition `p` that `c` decides holds, and changes nothing else. -/
theorem exec_skip_spec {s : State} {i : Instr} {c : Bool} {p : Prop} [Decidable p]
    (hexec : exec i s = .next (s.skipIf c)) (hc : c = true ↔ p) :
    ∃ t, exec i s = .next t ∧ t.pc = (if p then s.pc + 2 else s.pc) ∧ OnlyPc s t := by
  refine ⟨s.skipIf c, hexec, ?_, onlyPc_skipIf s c⟩
  rw [skipIf_pc]
  exact if_congr hc rfl rfl

/-! ### The obligations -/

/-- Settles O18: the target is loaded as it stands, odd or even. -/
theorem jumpLoadsItsTarget : Obligations.JumpLoadsItsTarget := by
  intro s nnn
  exact ⟨_, exec_jp_eq s nnn, immAddress_toNat nnn, onlyPc_setPc s _⟩

/-- Settles O21, by the rule of the skips with the byte test as the condition. -/
theorem immediateSkipsCompareWithTheByte : Obligations.ImmediateSkipsCompareWithTheByte := by
  intro s x kk
  constructor
  · exact exec_skip_spec (exec_seVxKk_eq s x kk) beq_iff_eq
  · exact exec_skip_spec (exec_sneVxKk_eq s x kk) bne_iff_ne

/-- Settles O22, by the rule of the skips with the register test as the condition. -/
theorem registerSkipsCompareTwoRegisters : Obligations.RegisterSkipsCompareTwoRegisters := by
  intro s x y
  constructor
  · exact exec_skip_spec (exec_seVxVy_eq s x y) beq_iff_eq
  · exact exec_skip_spec (exec_sneVxVy_eq s x y) bne_iff_ne

end Sys2Proof.Machine
end

section
/-! Loads and additions of one register (41_alu.md): what an instruction that writes `V[x]` alone changes, and the obligations
on it. -/

namespace Sys2Proof.Machine

/-! ### Rules of the operations -/

theorem onlyRegs_setV (s : State) (x : Reg) (b : Byte) : OnlyRegs (· = x) s (s.setV x b) :=
  ⟨fun _ hr => setV_getV_other s b hr, rfl, rfl, fun _ => rfl, ⟨fun _ _ => rfl, rfl⟩,
    ⟨rfl, rfl⟩, ⟨rfl, rfl⟩, rfl, rfl, rfl, rfl, rfl, rfl, rfl⟩

/-! ### The instructions, each as one equation -/

theorem exec_ldVxKk_eq (s : State) (x : Reg) (kk : Byte) : exec (.ldVxKk x kk) s = .next (s.setV x kk) := rfl

theorem exec_ldVxVy_eq (s : State) (x y : Reg) : exec (.ldVxVy x y) s = .next (s.setV x (s.getV y)) := rfl

theorem exec_addVxKk_eq (s : State) (x : Reg) (kk : Byte) :
    exec (.addVxKk x kk) s = .next (s.setV x (s.getV x + kk)) := rfl

/-- What every instruction without a flag that writes a register does: once its equation gives the byte `b`, `V[x]` reads as
`b` and nothing else changes, `VF` included unless it is the named destination. -/
theorem exec_setV_spec {s : State} {i : Instr} {x : Reg} {b : Byte} (hexec : exec i s = .next (s.setV x b)) :
    ∃ t, exec i s = .next t ∧ t.getV x = b ∧ OnlyRegs (· = x) s t :=
  ⟨s.setV x b, hexec, setV_getV_same s x b, onlyRegs_setV s x b⟩

/-! ### The obligations -/

/-- Settles O24, by the rule of the register writes with the immediate byte and with the other register's byte. -/
theorem loadsWriteTheDestinationRegister : Obligations.LoadsWriteTheDestinationRegister := by
  intro s x y kk
  constructor
  · exact exec_setV_spec (exec_ldVxKk_eq s x kk)
  · exact exec_setV_spec (exec_ldVxVy_eq s x y)

/-- Settles O25, by the rule of the register writes: the sum of two bytes is their sum modulo 256. -/
theorem addImmediateWrapsAndSetsNoFlag : Obligations.AddImmediateWrapsAndSetsNoFlag := by
  intro s x kk
  obtain ⟨t, hexec, hsum, hframe⟩ := exec_setV_spec (exec_addVxKk_eq s x kk)
  refine ⟨t, hexec, ?_, hframe⟩
  rw [hsum]
  exact BitVec.toNat_add _ _

end Sys2Proof.Machine
end

section
/-! Loads of the index register (42_index_memory.md): what an instruction that writes `I` alone changes, and the obligation on
it. -/

namespace Sys2Proof.Machine

/-! ### Rules of the operations -/

/-- `OnlyIndexRegsMemory` does not speak of `I`, the one field that `setI` writes, so no register and no byte need be excepted. -/
theorem onlyIndexRegsMemory_setI (s : State) (w : Word) :
    OnlyIndexRegsMemory (fun _ => False) (fun _ => False) s (s.setI w) :=
  ⟨fun r _ => setI_getV s w r, fun _ _ => rfl, setI_pc s w, ⟨fun _ _ => rfl, rfl⟩,
    ⟨rfl, rfl⟩, ⟨rfl, rfl⟩, rfl, rfl, rfl, rfl, rfl, rfl, rfl⟩

/-! ### The instruction as one equation -/

theorem exec_ldINnn_eq (s : State) (nnn : Addr12) : exec (.ldINnn nnn) s = .next (s.setI (immAddress nnn)) := rfl

/-! ### The obligation -/

/-- Settles O32: the 12 bits of `nnn` fit in `I`, and writing `I` touches nothing else. -/
theorem loadIndexSetsTheAddress : Obligations.LoadIndexSetsTheAddress := by
  intro s nnn
  refine ⟨s.setI (immAddress nnn), exec_ldINnn_eq s nnn, ?_, onlyIndexRegsMemory_setI s _⟩
  rw [setI_i]
  exact immAddress_toNat nnn

end Sys2Proof.Machine
end

section
/-! Decoding and encoding (30_encoding.md): the words of the three operand shapes taken apart into fields and put together
again, and the obligations on the opcode table. -/

namespace Sys2Proof

/-! ### The fields of a word of each shape (30_encoding.md R73, R74) -/

@[simp] theorem opField_nnnWord (op : BitVec 4) (nnn : Addr12) : opField (op ++ nnn) = op := by
  apply BitVec.eq_of_toNat_eq
  rw [opField_toNat, nnnWord_toNat]
  omega

@[simp] theorem nnnField_nnnWord (op : BitVec 4) (nnn : Addr12) : nnnField (op ++ nnn) = nnn := by
  apply BitVec.eq_of_toNat_eq
  rw [nnnField_toNat, nnnWord_toNat]
  omega

@[simp] theorem opField_xkkWord (op : BitVec 4) (x : Reg) (kk : Byte) : opField (op ++ nibble x ++ kk) = op := by
  apply BitVec.eq_of_toNat_eq
  rw [opField_toNat, xkkWord_toNat]
  omega

@[simp] theorem xField_xkkWord (op : BitVec 4) (x : Reg) (kk : Byte) : xField (op ++ nibble x ++ kk) = x := by
  apply Fin.ext
  rw [xField_val, xkkWord_toNat]
  omega

@[simp] theorem kkField_xkkWord (op : BitVec 4) (x : Reg) (kk : Byte) : kkField (op ++ nibble x ++ kk) = kk := by
  apply BitVec.eq_of_toNat_eq
  rw [kkField_toNat, xkkWord_toNat]
  omega

@[simp] theorem opField_xynWord (op : BitVec 4) (x y : Reg) (n : BitVec 4) :
    opField (op ++ nibble x ++ nibble y ++ n) = op := by
  apply BitVec.eq_of_toNat_eq
  rw [opField_toNat, xynWord_toNat]
  omega

@[simp] theorem xField_xynWord (op : BitVec 4) (x y : Reg) (n : BitVec 4) :
    xField (op ++ nibble x ++ nibble y ++ n) = x := by
  apply Fin.ext
  rw [xField_val, xynWord_toNat]
  omega

@[simp] theorem yField_xynWord (op : BitVec 4) (x y : Reg) (n : BitVec 4) :
    yField (op ++ nibble x ++ nibble y ++ n) = y := by
  apply Fin.ext
  rw [yField_val, xynWord_toNat]
  omega

@[simp] theorem nField_xynWord (op : BitVec 4) (x y : Reg) (n : BitVec 4) :
    nField (op ++ nibble x ++ nibble y ++ n) = n := by
  apply BitVec.eq_of_toNat_eq
  rw [nField_toNat, xynWord_toNat]
  omega

/-- The row count of `Dxyn` as a plain count loses nothing. -/
theorem nField_eq_ofNat (w : Word) : nField w = BitVec.ofNat 4 (nField w).toNat := by
  rw [BitVec.ofNat_toNat, BitVec.setWidth_eq]

/-! ### A word from its fields (30_encoding.md R74) -/

theorem nnnWord_of_fields {w : Word} {op : BitVec 4} (hop : opField w = op) : op ++ nnnField w = w := by
  apply BitVec.eq_of_toNat_eq
  rw [nnnWord_toNat, ← hop, opField_toNat, nnnField_toNat]
  omega

theorem xkkWord_of_fields {w : Word} {op : BitVec 4} {kk : Byte} (hop : opField w = op) (hkk : kkField w = kk) :
    op ++ nibble (xField w) ++ kk = w := by
  apply BitVec.eq_of_toNat_eq
  rw [xkkWord_toNat, ← hop, ← hkk, opField_toNat, xField_val, kkField_toNat]
  omega

theorem xynWord_of_fields {w : Word} {op n : BitVec 4} (hop : opField w = op) (hn : nField w = n) :
    op ++ nibble (xField w) ++ nibble (yField w) ++ n = w := by
  apply BitVec.eq_of_toNat_eq
  rw [xynWord_toNat, ← hop, ← hn, opField_toNat, xField_val, yField_val, nField_toNat]
  omega

/-! ### Decoding an encoding -/

/-- No bit of an operand is lost: decoding looks at the digits that the row fixes and finds each operand in its field. -/
theorem decodeWord_encode {i : Instr} (hi : wellFormed i = true) : decodeWord (encode i) = .ok i := by
  cases i with
  | cls | ret => rfl
  | jp _ | call _ | ldINnn _ | jpV0Nnn _ => simp [encode, decodeWord]
  | seVxKk _ _ | sneVxKk _ _ | ldVxKk _ _ | addVxKk _ _ | rndVxKk _ _ => simp [encode, decodeWord]
  | seVxVy _ _ | sneVxVy _ _ => simp [encode, decodeWord]
  | ldVxVy _ _ | orVxVy _ _ | andVxVy _ _ | xorVxVy _ _ | addVxVy _ _ | subVxVy _ _ | shrVxVy _ _ | subnVxVy _ _
  | shlVxVy _ _ => simp [encode, decodeWord, decode8]
  | drw x y n =>
    have hn : n < 16 := of_decide_eq_true hi
    simp [encode, decodeWord, Nat.mod_eq_of_lt hn]
  | skp _ | sknp _ => simp [encode, decodeWord]
  | ldVxDt _ | ldVxK _ | ldDtVx _ | ldStVx _ | addIVx _ | ldFVx _ | ldBVx _ | ldMemVx _ | ldVxMem _ =>
    simp [encode, decodeWord, decodeF]

/-! ### Encoding a decoded word -/

theorem encode_of_decode8 {w : Word} {i : Instr} (hop : opField w = 0x8) (h : decode8 w = .ok i) :
    wellFormed i = true ∧ encode i = w := by
  unfold decode8 at h
  split at h <;> cases h <;>
    exact ⟨rfl, xynWord_of_fields hop (BitVec.eq_of_toNat_eq ‹(nField w).toNat = _›)⟩

theorem encode_of_decodeF {w : Word} {i : Instr} (hop : opField w = 0xF) (h : decodeF w = .ok i) :
    wellFormed i = true ∧ encode i = w := by
  unfold decodeF at h
  split at h <;> cases h <;>
    exact ⟨rfl, xkkWord_of_fields hop (BitVec.eq_of_toNat_eq ‹(kkField w).toNat = _›)⟩

/-- A decoded word is the encoding on every digit: its operands are its fields, and the other digits are those the decoder
tested. -/
theorem encode_of_decodeWord {w : Word} {i : Instr} (h : decodeWord w = .ok i) : wellFormed i = true ∧ encode i = w := by
  unfold decodeWord at h
  split at h
  · split at h
    · cases h
      exact ⟨rfl, Eq.symm ‹w = 0x00E0›⟩
    · split at h <;> cases h
      exact ⟨rfl, Eq.symm ‹w = 0x00EE›⟩
  · next hop => cases h; exact ⟨rfl, nnnWord_of_fields (BitVec.eq_of_toNat_eq hop)⟩
  · next hop => cases h; exact ⟨rfl, nnnWord_of_fields (BitVec.eq_of_toNat_eq hop)⟩
  · next hop => cases h; exact ⟨rfl, xkkWord_of_fields (BitVec.eq_of_toNat_eq hop) rfl⟩
  · next hop => cases h; exact ⟨rfl, xkkWord_of_fields (BitVec.eq_of_toNat_eq hop) rfl⟩
  · next hop =>
    split at h <;> cases h
    exact ⟨rfl, xynWord_of_fields (BitVec.eq_of_toNat_eq hop) ‹nField w = 0›⟩
  · next hop => cases h; exact ⟨rfl, xkkWord_of_fields (BitVec.eq_of_toNat_eq hop) rfl⟩
  · next hop => cases h; exact ⟨rfl, xkkWord_of_fields (BitVec.eq_of_toNat_eq hop) rfl⟩
  · next hop => exact encode_of_decode8 (BitVec.eq_of_toNat_eq hop) h
  · next hop =>
    split at h <;> cases h
    exact ⟨rfl, xynWord_of_fields (BitVec.eq_of_toNat_eq hop) ‹nField w = 0›⟩
  · next hop => cases h; exact ⟨rfl, nnnWord_of_fields (BitVec.eq_of_toNat_eq hop)⟩
  · next hop => cases h; exact ⟨rfl, nnnWord_of_fields (BitVec.eq_of_toNat_eq hop)⟩
  · next hop => cases h; exact ⟨rfl, xkkWord_of_fields (BitVec.eq_of_toNat_eq hop) rfl⟩
  · next hop =>
    cases h
    refine ⟨decide_eq_true (nField w).isLt, ?_⟩
    exact xynWord_of_fields (BitVec.eq_of_toNat_eq hop) (nField_eq_ofNat w)
  · next hop =>
    split at h
    · cases h
      exact ⟨rfl, xkkWord_of_fields (BitVec.eq_of_toNat_eq hop) ‹kkField w = 0x9E›⟩
    · split at h <;> cases h
      exact ⟨rfl, xkkWord_of_fields (BitVec.eq_of_toNat_eq hop) ‹kkField w = 0xA1›⟩
  · have hop : (opField w).toNat = 0xF := by
      have := (opField w).isLt
      refine Nat.le_antisymm (Nat.le_of_lt_succ this) ?_
      by_contra hlt
      interval_cases (opField w).toNat <;> contradiction
    exact encode_of_decodeF (BitVec.eq_of_toNat_eq hop) h

/-! ### The rows of the opcode table (30_encoding.md R76, R78) -/

/-- A mask that covers a field passes it on unchanged. -/
theorem opField_of_masked {w m v : Word} {op : BitVec 4} (hw : w &&& m = v) (hm : opField m = BitVec.allOnes 4)
    (hv : opField v = op) : opField w = op := by
  have hand : opField v = opField w &&& opField m := hw ▸ BitVec.extractLsb'_and
  rw [← hv, hand, hm, BitVec.and_allOnes]

theorem nField_of_masked {w m v : Word} {n : BitVec 4} (hw : w &&& m = v) (hm : nField m = BitVec.allOnes 4)
    (hv : nField v = n) : nField w = n := by
  have hand : nField v = nField w &&& nField m := hw ▸ BitVec.extractLsb'_and
  rw [← hv, hand, hm, BitVec.and_allOnes]

theorem kkField_of_masked {w m v : Word} {kk : Byte} (hw : w &&& m = v) (hm : kkField m = BitVec.allOnes 8)
    (hv : kkField v = kk) : kkField w = kk := by
  have hand : kkField v = kkField w &&& kkField m := hw ▸ BitVec.extractLsb'_and
  rw [← hv, hand, hm, BitVec.and_allOnes]

/-- The instruction of the same row with the operands that stand in the fields of a word. -/
def Instr.withOperands (w : Word) : Instr → Instr
  | .cls => .cls
  | .ret => .ret
  | .jp _ => .jp (nnnField w)
  | .call _ => .call (nnnField w)
  | .seVxKk _ _ => .seVxKk (xField w) (kkField w)
  | .sneVxKk _ _ => .sneVxKk (xField w) (kkField w)
  | .seVxVy _ _ => .seVxVy (xField w) (yField w)
  | .ldVxKk _ _ => .ldVxKk (xField w) (kkField w)
  | .addVxKk _ _ => .addVxKk (xField w) (kkField w)
  | .ldVxVy _ _ => .ldVxVy (xField w) (yField w)
  | .orVxVy _ _ => .orVxVy (xField w) (yField w)
  | .andVxVy _ _ => .andVxVy (xField w) (yField w)
  | .xorVxVy _ _ => .xorVxVy (xField w) (yField w)
  | .addVxVy _ _ => .addVxVy (xField w) (yField w)
  | .subVxVy _ _ => .subVxVy (xField w) (yField w)
  | .shrVxVy _ _ => .shrVxVy (xField w) (yField w)
  | .subnVxVy _ _ => .subnVxVy (xField w) (yField w)
  | .shlVxVy _ _ => .shlVxVy (xField w) (yField w)
  | .sneVxVy _ _ => .sneVxVy (xField w) (yField w)
  | .ldINnn _ => .ldINnn (nnnField w)
  | .jpV0Nnn _ => .jpV0Nnn (nnnField w)
  | .rndVxKk _ _ => .rndVxKk (xField w) (kkField w)
  | .drw _ _ _ => .drw (xField w) (yField w) (nField w).toNat
  | .skp _ => .skp (xField w)
  | .sknp _ => .sknp (xField w)
  | .ldVxDt _ => .ldVxDt (xField w)
  | .ldVxK _ => .ldVxK (xField w)
  | .ldDtVx _ => .ldDtVx (xField w)
  | .ldStVx _ => .ldStVx (xField w)
  | .addIVx _ => .addIVx (xField w)
  | .ldFVx _ => .ldFVx (xField w)
  | .ldBVx _ => .ldBVx (xField w)
  | .ldMemVx _ => .ldMemVx (xField w)
  | .ldVxMem _ => .ldVxMem (xField w)

theorem maskMatch_withOperands (w : Word) (i : Instr) : maskMatch (i.withOperands w) = maskMatch i := by
  cases i <;> rfl

/-- The operands of a word fit their fields. -/
theorem wellFormed_withOperands (w : Word) (i : Instr) : wellFormed (i.withOperands w) = true := by
  cases i with
  | drw _ _ _ => exact decide_eq_true (nField w).isLt
  | _ => rfl

/-- A word that matches a row is the encoding of the row's instruction with the word's own operands. -/
theorem encode_withOperands {w : Word} {i : Instr} (h : w &&& (maskMatch i).1 = (maskMatch i).2) :
    encode (i.withOperands w) = w := by
  cases i with
  | cls | ret => exact h.symm.trans BitVec.and_allOnes
  | jp _ | call _ | ldINnn _ | jpV0Nnn _ =>
    rw [maskMatch] at h
    exact nnnWord_of_fields (opField_of_masked h rfl rfl)
  | seVxKk _ _ | sneVxKk _ _ | ldVxKk _ _ | addVxKk _ _ | rndVxKk _ _ =>
    rw [maskMatch] at h
    exact xkkWord_of_fields (opField_of_masked h rfl rfl) rfl
  | seVxVy _ _ | sneVxVy _ _ | ldVxVy _ _ | orVxVy _ _ | andVxVy _ _ | xorVxVy _ _ | addVxVy _ _ | subVxVy _ _
  | shrVxVy _ _ | subnVxVy _ _ | shlVxVy _ _ =>
    rw [maskMatch] at h
    exact xynWord_of_fields (opField_of_masked h rfl rfl) (nField_of_masked h rfl rfl)
  | drw _ _ _ =>
    rw [maskMatch] at h
    exact xynWord_of_fields (opField_of_masked h rfl rfl) (nField_eq_ofNat w)
  | skp _ | sknp _ | ldVxDt _ | ldVxK _ | ldDtVx _ | ldStVx _ | addIVx _ | ldFVx _ | ldBVx _ | ldMemVx _
  | ldVxMem _ =>
    rw [maskMatch] at h
    exact xkkWord_of_fields (opField_of_masked h rfl rfl) (kkField_of_masked h rfl rfl)

/-- Every instruction's row is one of the table's: the operands play no part in it. -/
theorem maskMatch_mem_opcodeRows (i : Instr) : maskMatch i ∈ opcodeRows := by
  cases i <;> simp [opcodeRows, maskMatch]

/-- A word that has the digits of a row decodes to an instruction of that row. -/
theorem exists_decodeWord_of_masked {w : Word} {row : Word × Word} (hrow : row ∈ opcodeRows) (h : w &&& row.1 = row.2) :
    ∃ i, decodeWord w = .ok i ∧ maskMatch i = row := by
  simp only [opcodeRows, ← List.map_append, List.mem_map] at hrow
  obtain ⟨i, -, rfl⟩ := hrow
  refine ⟨i.withOperands w, ?_, maskMatch_withOperands w i⟩
  have hdec := decodeWord_encode (wellFormed_withOperands w i)
  rwa [encode_withOperands h] at hdec

/-! A masked word as its fields. -/

theorem and_F000_eq (w : Word) : w &&& 0xF000 = opField w ++ 0#12 := by
  rw [← nnnWord_of_fields (w := w) rfl, opField_nnnWord]
  show (opField w ++ nnnField w) &&& (BitVec.allOnes 4 ++ 0#12) = _
  simp only [BitVec.and_append, BitVec.and_zero, BitVec.and_allOnes]

theorem and_F00F_eq (w : Word) : w &&& 0xF00F = opField w ++ nibble 0 ++ nibble 0 ++ nField w := by
  rw [← xynWord_of_fields (w := w) rfl rfl, opField_xynWord, nField_xynWord]
  show (opField w ++ nibble (xField w) ++ nibble (yField w) ++ nField w) &&&
      (BitVec.allOnes 4 ++ 0#4 ++ 0#4 ++ BitVec.allOnes 4) = opField w ++ nibble 0 ++ nibble 0 ++ nField w
  simp only [BitVec.and_append, BitVec.and_zero, BitVec.and_allOnes]
  rfl

theorem and_F0FF_eq (w : Word) : w &&& 0xF0FF = opField w ++ nibble 0 ++ kkField w := by
  rw [← xkkWord_of_fields (w := w) rfl rfl, opField_xkkWord, kkField_xkkWord]
  show (opField w ++ nibble (xField w) ++ kkField w) &&& (BitVec.allOnes 4 ++ 0#4 ++ BitVec.allOnes 8) = _
  simp only [BitVec.and_append, BitVec.and_zero, BitVec.and_allOnes]
  rfl

/-- An encoding has every digit that its row prints. -/
theorem encode_masked (i : Instr) : encode i &&& (maskMatch i).1 = (maskMatch i).2 := by
  cases i with
  | cls | ret => rfl
  | jp _ | call _ | ldINnn _ | jpV0Nnn _ =>
    rw [encode, maskMatch, and_F000_eq, opField_nnnWord]
    rfl
  | seVxKk _ _ | sneVxKk _ _ | ldVxKk _ _ | addVxKk _ _ | rndVxKk _ _ =>
    rw [encode, maskMatch, and_F000_eq, opField_xkkWord]
    rfl
  | seVxVy _ _ | sneVxVy _ _ | ldVxVy _ _ | orVxVy _ _ | andVxVy _ _ | xorVxVy _ _ | addVxVy _ _ | subVxVy _ _
  | shrVxVy _ _ | subnVxVy _ _ | shlVxVy _ _ =>
    rw [encode, maskMatch, and_F00F_eq, opField_xynWord, nField_xynWord]
    rfl
  | drw _ _ _ =>
    rw [encode, maskMatch, and_F000_eq, opField_xynWord]
    rfl
  | skp _ | sknp _ | ldVxDt _ | ldVxK _ | ldDtVx _ | ldStVx _ | addIVx _ | ldFVx _ | ldBVx _ | ldMemVx _
  | ldVxMem _ =>
    rw [encode, maskMatch, and_F0FF_eq, opField_xkkWord, kkField_xkkWord]
    rfl

/-! ### The obligations -/

/-- Settles O1: decoding finds each operand in the field that encoding put it in. -/
theorem decodingAnEncodedInstructionGivesItBack : Obligations.DecodingAnEncodedInstructionGivesItBack :=
  fun _ hi => decodeWord_encode hi

/-- Settles O2: along the branches of the decoder, each word is put together again from its fields and the digits tested. -/
theorem encodingADecodedWordGivesItBack : Obligations.EncodingADecodedWordGivesItBack :=
  fun _ _ h => encode_of_decodeWord h

/-- Settles O3: a decoded word is an encoding, which has the digits of its row; a word with a row's digits is the encoding of
that row's instruction with the word's own operands; and since a word decodes to one instruction, it matches one row. -/
theorem aWordIsAnInstructionExactlyWhenItMatchesItsRow :
    Obligations.AWordIsAnInstructionExactlyWhenItMatchesItsRow := by
  refine ⟨fun w i h => ⟨maskMatch_mem_opcodeRows i, ?_⟩, fun w row hrow h => exists_decodeWord_of_masked hrow h, ?_⟩
  · rw [← (encode_of_decodeWord h).2]
    exact encode_masked i
  · intro w row hrow row' hrow' h h'
    obtain ⟨i, hi, rfl⟩ := exists_decodeWord_of_masked hrow h
    obtain ⟨i', hi', rfl⟩ := exists_decodeWord_of_masked hrow' h'
    have hii' : i = i' := Except.ok.inj (hi.symm.trans hi')
    rw [hii']

/-- Settles O4, by running the decoder on each word. -/
theorem specWordsDecodeToTheirInstructions : Obligations.SpecWordsDecodeToTheirInstructions := by
  unfold Obligations.SpecWordsDecodeToTheirInstructions
  decide

end Sys2Proof
end

section
/-! What an instruction does, said once for all of them: the state it completes in where it raises no fault, as the updates of
single fields. The statements about every instruction are read off it. -/

namespace Sys2Proof.Machine

/-! ### Conditional updates as updates of a field -/

theorem skipIf_eq_setPc (s : State) (c : Bool) : s.skipIf c = s.setPc (if c then s.pc + 2 else s.pc) := by
  cases c <;> rfl

theorem advanceI_eq_setI (s : State) (n : Nat) :
    s.advanceI n = s.setI (if s.quirks.increment then s.i + BitVec.ofNat 16 n else s.i) := by
  unfold State.advanceI
  split <;> rfl

theorem setV_getV_self (s : State) (x : Reg) : s.setV x (s.getV x) = s := by
  simp [State.setV, State.getV]

/-! ### The completed instruction -/

/-- The state in which an instruction completes, where the table of causes names no fault. Where it names one this is not what
the instruction does, and nothing is claimed of it. -/
def completed (i : Instr) (s : State) : State :=
  match i with
  | .cls => (s.setFb Frame.off).emit [.clear]
  | .ret => { s with pc := (s.stack[s.sp.val - 1]?).getD 0, sp := ⟨s.sp.val - 1, by omega⟩ }
  | .jp nnn => s.setPc (immAddress nnn)
  | .call nnn =>
    { s with
      stack := s.stack.setIfInBounds s.sp.val s.pc
      sp := ⟨min (s.sp.val + 1) 16, by omega⟩
      pc := immAddress nnn }
  | .seVxKk x kk => s.setPc (if s.getV x == kk then s.pc + 2 else s.pc)
  | .sneVxKk x kk => s.setPc (if s.getV x != kk then s.pc + 2 else s.pc)
  | .seVxVy x y => s.setPc (if s.getV x == s.getV y then s.pc + 2 else s.pc)
  | .sneVxVy x y => s.setPc (if s.getV x != s.getV y then s.pc + 2 else s.pc)
  | .jpV0Nnn nnn => s.setPc (immAddress nnn + wide (s.jumpOffset nnn))
  | .ldVxKk x kk => s.setV x kk
  | .addVxKk x kk => s.setV x (s.getV x + kk)
  | .ldVxVy x y => s.setV x (s.getV y)
  | .orVxVy x y => s.setV x (s.getV x ||| s.getV y)
  | .andVxVy x y => s.setV x (s.getV x &&& s.getV y)
  | .xorVxVy x y => s.setV x (s.getV x ^^^ s.getV y)
  | .addVxVy x y => s.setVF x (s.getV x + s.getV y) (carryFlag (s.getV x) (s.getV y))
  | .subVxVy x y => s.setVF x (s.getV x - s.getV y) (noBorrowFlag (s.getV x) (s.getV y))
  | .shrVxVy x y => s.setVF x (s.shiftSource x y >>> 1) (lowBitFlag (s.shiftSource x y))
  | .subnVxVy x y => s.setVF x (s.getV y - s.getV x) (noBorrowFlag (s.getV y) (s.getV x))
  | .shlVxVy x y => s.setVF x (s.shiftSource x y <<< 1) (highBitFlag (s.shiftSource x y))
  | .rndVxKk x kk => s.setV x (s.env.rnd &&& kk)
  | .ldINnn nnn => s.setI (immAddress nnn)
  | .addIVx x =>
    (s.setI (s.i + wide (s.getV x))).setV vf
      (if s.quirks.addCarry && indexPasses s.i (s.getV x) then 1 else s.getV vf)
  | .ldFVx x => s.setI (glyphAddress (s.getV x))
  | .drw x y n =>
    s.finishDraw (drawPlaces s.fb (spritePlaces (s.drawColumn x) (s.drawRow y) (s.mem.readBytes s.i.toNat n)))
  | .skp x => s.setPc (if s.env.keys.getLsbD (s.getV x).toNat then s.pc + 2 else s.pc)
  | .sknp x => s.setPc (if !s.env.keys.getLsbD (s.getV x).toNat then s.pc + 2 else s.pc)
  | .ldVxDt x => s.setV x (BitVec.ofNat 8 (s.dtVal s.env.now))
  | .ldVxK x => s.setRun (.waitKey x)
  | .ldDtVx x => s.setDt ⟨s.getV x, s.env.now⟩
  | .ldStVx x => s.setSt ⟨s.getV x, s.env.now⟩
  | .ldBVx x => s.setMem (s.mem.writeBytes s.i.toNat (decimalDigits (s.getV x)))
  | .ldMemVx x =>
    (s.setMem (s.mem.writeBytes s.i.toNat (s.getPrefix x))).setI
      (if s.quirks.increment then s.i + BitVec.ofNat 16 (x.val + 1) else s.i)
  | .ldVxMem x =>
    (s.setPrefix (s.mem.readBytes s.i.toNat (x.val + 1))).setI
      (if s.quirks.increment then s.i + BitVec.ofNat 16 (x.val + 1) else s.i)

/-! ### Its equation -/

theorem exec_ret_eq (s : State) :
    exec .ret s = if s.sp.val ≠ 0 then .next (completed .ret s) else raiseIn .ret .stackUnderflow s := by
  by_cases h : s.sp.val = 0
  · rw [if_neg (not_not_intro h), exec_ret_fault s h]
  · have hk : s.sp.val - 1 < 16 := by omega
    rw [if_pos h, exec_ret_next s hk (by omega)]
    simp [completed, hk]

theorem exec_call_eq (s : State) (nnn : Addr12) :
    exec (.call nnn) s =
      if s.sp.val ≠ 16 then .next (completed (.call nnn) s) else raiseIn (.call nnn) .stackOverflow s := by
  by_cases h : s.sp.val = 16
  · rw [if_neg (not_not_intro h), exec_call_fault s nnn h]
  · have hk : s.sp.val < 16 := by omega
    have hsp : min (s.sp.val + 1) 16 = s.sp.val + 1 := by omega
    have hslot : s.stack.setIfInBounds s.sp.val s.pc = s.stack.set s.sp.val s.pc hk := by
      ext j hj
      simp [Vector.getElem_set, Vector.getElem_setIfInBounds]
    rw [if_pos h, exec_call_next s nnn hk]
    simp only [completed, hslot, hsp]

theorem exec_addIVx_eq (s : State) (x : Reg) : exec (.addIVx x) s = .next (completed (.addIVx x) s) := by
  show execAddIVx x s = _
  unfold execAddIVx
  cases h : s.quirks.addCarry && indexPasses s.i (s.getV x) with
  | false =>
    simp only [completed, h]
    exact congrArg Host.Outcome.next (setV_getV_self _ vf).symm
  | true => simp [completed, h]

/-- An instruction that completes under a condition and else raises its one fault does what the table of causes says, where the
table's condition is the opposite one. -/
theorem ite_raiseIn_eq_elim {p q : Prop} [Decidable p] [Decidable q] (hpq : p ↔ ¬ q) (i : Instr) (c : FaultCause)
    (s t : State) :
    (if p then .next t else raiseIn i c s) = (if q then some c else none).elim (.next t) (raiseIn i · s) := by
  by_cases hq : q
  · rw [if_pos hq, if_neg fun hp => hpq.1 hp hq]
    rfl
  · rw [if_neg hq, if_pos (hpq.2 hq)]
    rfl

/-- What every instruction does: it completes where the table names no fault, and else raises the fault named. -/
theorem exec_eq (i : Instr) (s : State) :
    exec i s = (faultCause i s).elim (.next (completed i s)) (raiseIn i · s) := by
  cases i with
  | ret => exact (exec_ret_eq s).trans (ite_raiseIn_eq_elim Iff.rfl ..)
  | call nnn => exact (exec_call_eq s nnn).trans (ite_raiseIn_eq_elim Iff.rfl ..)
  | drw x y n => exact (exec_drw_eq s x y n).trans (ite_raiseIn_eq_elim (by omega) ..)
  | ldBVx x => exact (exec_ldBVx_eq s x).trans (ite_raiseIn_eq_elim (by omega) ..)
  | ldMemVx x =>
    rw [exec_ldMemVx_eq, advanceI_eq_setI]
    exact ite_raiseIn_eq_elim (by omega) ..
  | ldVxMem x =>
    rw [exec_ldVxMem_eq, advanceI_eq_setI]
    exact ite_raiseIn_eq_elim (by omega) ..
  | skp x =>
    rw [exec_skp_eq, skipIf_eq_setPc]
    exact ite_raiseIn_eq_elim (by omega) ..
  | sknp x =>
    rw [exec_sknp_eq, skipIf_eq_setPc]
    exact ite_raiseIn_eq_elim (by omega) ..
  | addIVx x => exact exec_addIVx_eq s x
  | seVxKk _ _ | sneVxKk _ _ | seVxVy _ _ | sneVxVy _ _ => exact congrArg Host.Outcome.next (skipIf_eq_setPc s _)
  | _ => rfl

theorem exec_of_faultCause_none {i : Instr} {s : State} (h : faultCause i s = none) : exec i s = .next (completed i s) := by
  rw [exec_eq, h]
  rfl

theorem exec_of_faultCause_some {i : Instr} {s : State} {c : FaultCause} (h : faultCause i s = some c) :
    exec i s = raiseIn i c s := by
  rw [exec_eq, h]
  rfl

/-- All that an instruction which answers a next state does. -/
theorem exec_eq_next {i : Instr} {s t : State} (h : exec i s = .next t) : faultCause i s = none ∧ t = completed i s := by
  rw [exec_eq] at h
  cases hc : faultCause i s with
  | none =>
    rw [hc] at h
    exact ⟨rfl, (Host.Outcome.next.inj h).symm⟩
  | some c =>
    rw [hc] at h
    exact absurd h (raiseIn_ne_next s)

end Sys2Proof.Machine
end

section
/-! What the instructions keep (10_state.md R20 to R33), read off the completed instruction, and the obligations on it. -/

namespace Sys2Proof.Machine

/-! ### The fields of the completed instruction -/

section

variable {i : Instr} (s : State)

theorem completed_mem (hb : ∀ x, i ≠ .ldBVx x) (hm : ∀ x, i ≠ .ldMemVx x) : (completed i s).mem = s.mem := by
  cases i with
  | ldBVx x => exact absurd rfl (hb x)
  | ldMemVx x => exact absurd rfl (hm x)
  | ldVxMem x => simp [completed]
  | _ => rfl

theorem completed_font (i : Instr) : (completed i s).mem.font = s.mem.font := by
  cases i with
  | ldBVx x => exact Memory.writeBytes_font ..
  | ldMemVx x => exact Memory.writeBytes_font ..
  | ldVxMem x => simp [completed]
  | _ => rfl

theorem completed_i (h : writesIndex i = false) : (completed i s).i = s.i := by
  cases i with
  | ldINnn _ | addIVx _ | ldFVx _ | ldMemVx _ | ldVxMem _ => cases h
  | _ => rfl

theorem completed_getV_vf (h : writesVF i = false) : (completed i s).getV vf = s.getV vf := by
  cases i with
  | addVxVy _ _ | subVxVy _ _ | shrVxVy _ _ | subnVxVy _ _ | shlVxVy _ _ | drw _ _ _ | addIVx _ => cases h
  | ldVxKk x _ | addVxKk x _ | rndVxKk x _ | ldVxVy x _ | orVxVy x _ | andVxVy x _ | xorVxVy x _ | ldVxDt x =>
    exact setV_getV_other s _ (ne_of_beq_false h).symm
  | ldVxMem x =>
    have hx : x ≠ vf := ne_of_beq_false h
    have hlt : ¬ (vf : Reg).val < x.val + 1 := fun hle => hx (Fin.ext (by simp only [vf] at *; omega))
    rw [completed, setI_getV, setPrefix_getV, Memory.readBytes_getElem?, if_neg hlt]
    rfl
  | _ => rfl

theorem completed_stack (h : ∀ nnn, i ≠ .call nnn) : (completed i s).stack = s.stack := by
  cases i with
  | call nnn => exact absurd rfl (h nnn)
  | ldVxMem x => simp [completed]
  | _ => rfl

theorem completed_sp (hc : ∀ nnn, i ≠ .call nnn) (hr : i ≠ .ret) : (completed i s).sp = s.sp := by
  cases i with
  | call nnn => exact absurd rfl (hc nnn)
  | ret => exact absurd rfl hr
  | ldVxMem x => simp [completed]
  | _ => rfl

theorem completed_fb (hc : i ≠ .cls) (hd : ∀ x y n, i ≠ .drw x y n) : (completed i s).fb = s.fb := by
  cases i with
  | cls => exact absurd rfl hc
  | drw x y n => exact absurd rfl (hd x y n)
  | ldVxMem x => simp [completed]
  | _ => rfl

theorem completed_display (hc : i ≠ .cls) (hd : ∀ x y n, i ≠ .drw x y n) : (completed i s).display = s.display := by
  cases i with
  | cls => exact absurd rfl hc
  | drw x y n => exact absurd rfl (hd x y n)
  | ldVxMem x => simp [completed]
  | _ => rfl

theorem completed_dt (h : ∀ x, i ≠ .ldDtVx x) : (completed i s).dt = s.dt := by
  cases i with
  | ldDtVx x => exact absurd rfl (h x)
  | ldVxMem x => simp [completed]
  | _ => rfl

theorem completed_st (h : ∀ x, i ≠ .ldStVx x) : (completed i s).st = s.st := by
  cases i with
  | ldStVx x => exact absurd rfl (h x)
  | ldVxMem x => simp [completed]
  | _ => rfl

theorem completed_run (h : ∀ x, i ≠ .ldVxK x) : (completed i s).run = s.run := by
  cases i with
  | ldVxK x => exact absurd rfl (h x)
  | ldVxMem x => simp [completed]
  | _ => rfl

theorem completed_quirks (i : Instr) : (completed i s).quirks = s.quirks := by
  cases i with
  | ldVxMem x => simp [completed]
  | _ => rfl

theorem completed_unitsPerSecond (i : Instr) : (completed i s).unitsPerSecond = s.unitsPerSecond := by
  cases i with
  | ldVxMem x => simp [completed]
  | _ => rfl

theorem completed_env (i : Instr) : (completed i s).env = s.env := by
  cases i with
  | ldVxMem x => simp [completed]
  | _ => rfl

theorem completed_pending (i : Instr) : (completed i s).pending = s.pending := by
  cases i with
  | ldVxMem x => simp [completed]
  | _ => rfl

theorem completed_drawn (i : Instr) : (completed i s).drawn = s.drawn := by
  cases i with
  | ldVxMem x => simp [completed]
  | _ => rfl

/-- No instruction changes the configuration or the inputs. -/
theorem completed_sameInstance (i : Instr) : SameInstance s (completed i s) :=
  ⟨completed_quirks s i, completed_unitsPerSecond s i, completed_font s i, completed_env s i, completed_pending s i,
    completed_drawn s i⟩

end

/-! ### The obligations -/

/-- Settles O16: both parts are what the equation of every instruction says. -/
theorem anInstructionFaultsExactlyAsTheTableSays : Obligations.AnInstructionFaultsExactlyAsTheTableSays :=
  fun i s => ⟨fun _ h => exec_of_faultCause_some h, fun h => ⟨completed i s, exec_of_faultCause_none h⟩⟩

/-- Settles O31: an instruction that is not listed writes no register, or one whose number is not 15. -/
theorem onlyTheListedInstructionsWriteVF : Obligations.OnlyTheListedInstructionsWriteVF := by
  intro i s t hexec hi
  obtain ⟨-, rfl⟩ := exec_eq_next hexec
  exact completed_getV_vf s hi

/-- Settles O39: the listed instructions are the ones whose completion writes `I`. -/
theorem onlyTheListedInstructionsWriteTheIndex : Obligations.OnlyTheListedInstructionsWriteTheIndex := by
  intro i s t hexec hi
  obtain ⟨-, rfl⟩ := exec_eq_next hexec
  exact completed_i s hi

/-- Settles O42: no completion but those two writes memory. -/
theorem onlyTwoInstructionsStore : Obligations.OnlyTwoInstructionsStore := by
  intro i s t hexec hb hm
  obtain ⟨-, rfl⟩ := exec_eq_next hexec
  exact completed_mem s hb hm

/-- Settles O43: besides a call only a return writes the count, and it writes no slot. -/
theorem onlyCallWritesTheStack : Obligations.OnlyCallWritesTheStack := by
  intro i s t hexec hc
  obtain ⟨-, rfl⟩ := exec_eq_next hexec
  exact ⟨completed_stack s hc, completed_sp s hc⟩

/-- Settles O48: no completion but those two writes the display store or the record of commands. -/
theorem onlyDisplayInstructionsChangeThePixels : Obligations.OnlyDisplayInstructionsChangeThePixels := by
  intro i s t hexec hc hd
  obtain ⟨-, rfl⟩ := exec_eq_next hexec
  exact ⟨completed_fb s hc hd, completed_display s hc hd⟩

/-- Settles O53: each timer pair is written by the completion of one instruction. -/
theorem onlyTheirInstructionsSetTheTimers : Obligations.OnlyTheirInstructionsSetTheTimers := by
  intro i s t hexec
  obtain ⟨-, rfl⟩ := exec_eq_next hexec
  exact ⟨completed_dt s, completed_st s⟩

end Sys2Proof.Machine
end

section
/-! The micro-step (10_state.md R31, 30_encoding.md R70, R71): what it fetches, what it samples, what it reports, what it
keeps, and the obligations on it. -/

namespace Sys2Proof.Machine

/-! ### The fetch -/

theorem readWord_in {m : Memory} {a : Nat} (h : a + 1 < 4096) :
    m.readWord a = .ok (joinBytes (m.read a) (m.read (a + 1))) :=
  if_pos h

theorem readWord_out {m : Memory} {a : Nat} (h : 4096 ≤ a + 1) :
    m.readWord a = .error (if 4096 ≤ a then a else a + 1) :=
  if_neg (Nat.not_lt.2 h)

/-- The address of the next word, as a number, where the word at `PC` lies in memory. -/
theorem pc_add_two_toNat {pc : Word} (h : pc.toNat + 1 < 4096) : (pc + 2).toNat = pc.toNat + 2 := by
  rw [BitVec.toNat_add]
  show (pc.toNat + 2) % 65536 = _
  omega

theorem step_running {s : State} (h : s.run = .running) : step s = cycle s.sample := by
  rw [step, h]

theorem step_waitKey {s : State} {x : Reg} (h : s.run = .waitKey x) : step s = poll x s.sample := by
  rw [step, h]

/-- A cycle whose fetch leaves memory. -/
theorem cycle_of_outside {s : State} (h : 4096 ≤ s.pc.toNat + 1) :
    cycle s = raise (.outOfBounds (if 4096 ≤ s.pc.toNat then s.pc.toNat else s.pc.toNat + 1)) s.pc none s := by
  rw [cycle, readWord_out h]

/-- A cycle that fetches an illegal word. -/
theorem cycle_of_illegal {s : State} {w : Word} {e : Reject} (hw : s.mem.readWord s.pc.toNat = .ok w)
    (he : decodeWord w = .error e) :
    cycle s = raise (.decodeError s.pc w) s.pc (some w) (s.setPc (s.pc + 2)) := by
  simp only [cycle, hw, he]

/-- A cycle that fetches an instruction. -/
theorem cycle_of_decodes {s : State} {w : Word} {i : Instr} (hw : s.mem.readWord s.pc.toNat = .ok w)
    (hi : decodeWord w = .ok i) : cycle s = exec i (s.setPc (s.pc + 2)) := by
  simp only [cycle, hw, hi]

/-- A cycle has one of these three courses. -/
theorem cycle_cases (s : State) :
    (∃ a, cycle s = raise (.outOfBounds a) s.pc none s) ∨
    (∃ w, cycle s = raise (.decodeError s.pc w) s.pc (some w) (s.setPc (s.pc + 2))) ∨
    ∃ i, cycle s = exec i (s.setPc (s.pc + 2)) := by
  by_cases hpc : s.pc.toNat + 1 < 4096
  · have hw := readWord_in (m := s.mem) hpc
    cases hdec : decodeWord (joinBytes (s.mem.read s.pc.toNat) (s.mem.read (s.pc.toNat + 1))) with
    | error e => exact .inr (.inl ⟨_, cycle_of_illegal hw hdec⟩)
    | ok i => exact .inr (.inr ⟨i, cycle_of_decodes hw hdec⟩)
  · exact .inl ⟨_, cycle_of_outside (Nat.not_lt.1 hpc)⟩

/-- All that a step which answers a next state does, by the instruction it completes or the poll it makes. -/
theorem step_eq_next_cases {s t : State} (h : step s = .next t) :
    (∃ i, s.pc.toNat + 1 < 4096 ∧ faultCause i (s.sample.setPc (s.pc + 2)) = none ∧
      t = completed i (s.sample.setPc (s.pc + 2))) ∨
    t = s.sample ∨ (∃ x k, t = (s.sample.setV x (keyByte k)).setRun .running) ∨ t = s.sample.setRun .halted := by
  obtain ⟨-, hpc, w, i, -, -, hexec⟩ | ⟨x, -, hpoll⟩ := step_eq_next s h
  · exact .inl ⟨i, hpc, exec_eq_next hexec⟩
  · obtain ⟨-, rfl⟩ | ⟨k, -, rfl⟩ | ⟨-, rfl⟩ := poll_eq_next _ hpoll
    · exact .inr (.inl rfl)
    · exact .inr (.inr (.inl ⟨x, k, rfl⟩))
    · exact .inr (.inr (.inr rfl))

/-- No step changes what its sample and the configuration hold. -/
theorem step_sameInstance {s t : State} (h : step s = .next t) : SameInstance s.sample t := by
  obtain ⟨i, -, -, rfl⟩ | rfl | ⟨x, k, rfl⟩ | rfl := step_eq_next_cases h
  · exact completed_sameInstance (s.sample.setPc (s.pc + 2)) i
  · exact ⟨rfl, rfl, rfl, rfl, rfl, rfl⟩
  · exact ⟨rfl, rfl, rfl, rfl, rfl, rfl⟩
  · exact ⟨rfl, rfl, rfl, rfl, rfl, rfl⟩

/-! ### The poll, by its event (44_keypad.md R188, R190) -/

theorem poll_of_none {s : State} {x : Reg} (h : s.env.event = .none) : poll x s = .next s := by
  rw [poll, h]

theorem poll_of_keyTransition {s : State} {x : Reg} {k : Key} (h : s.env.event = .keyTransition k) :
    poll x s = .next ((s.setV x (keyByte k)).setRun .running) := by
  rw [poll, h]

theorem poll_of_quit {s : State} {x : Reg} (h : s.env.event = .quit) : poll x s = .next (s.setRun .halted) := by
  rw [poll, h]

theorem keyByte_toNat (k : Key) : (keyByte k).toNat = k.val := by
  rw [keyByte, BitVec.toNat_ofNat]
  omega

/-! ### The outcome of a step (60_exceptions.md R222) -/

/-- A result is a next state that runs, waits or has halted, and is reported so, or a fault with its report. -/
def ReportsItsOutcome (r : Result) : Prop :=
  (∃ t, r = .next t ∧ t.run = .running ∧ stepOutcome r = some .ok) ∨
  (∃ t x, r = .next t ∧ t.run = .waitKey x ∧ stepOutcome r = some .waiting) ∨
  (∃ t, r = .next t ∧ t.run = .halted ∧ stepOutcome r = some .halt) ∨
  ∃ f rep t, r = .fault f ∧ f.report = some rep ∧ f.after = some t ∧ t.run = .faulted rep.cause ∧
    stepOutcome r = some (.fault rep)

theorem reportsItsOutcome_running {t : State} (h : t.run = .running) : ReportsItsOutcome (.next t) :=
  .inl ⟨t, rfl, h, by simp [stepOutcome, h]⟩

theorem reportsItsOutcome_waitKey {t : State} {x : Reg} (h : t.run = .waitKey x) : ReportsItsOutcome (.next t) :=
  .inr (.inl ⟨t, x, rfl, h, by simp [stepOutcome, h]⟩)

theorem reportsItsOutcome_halted {t : State} (h : t.run = .halted) : ReportsItsOutcome (.next t) :=
  .inr (.inr (.inl ⟨t, rfl, h, by simp [stepOutcome, h]⟩))

theorem fault_report (c : FaultCause) (r : Report) (t : State) : (c.fault r t).report = some r := by
  cases c <;> rfl

theorem fault_after (c : FaultCause) (r : Report) (t : State) : (c.fault r t).after = some t := by
  cases c <;> rfl

theorem reportsItsOutcome_raise (c : FaultCause) (a : Word) (w : Option Word) (s : State) :
    ReportsItsOutcome (raise c a w s) := by
  have hreport := fault_report c ⟨c, a, w⟩ (s.setRun (.faulted c))
  refine .inr (.inr (.inr ⟨_, _, _, rfl, hreport, fault_after .., rfl, ?_⟩))
  simp [raise, stepOutcome, hreport]

theorem reportsItsOutcome_exec (i : Instr) {s : State} (h : s.run = .running) : ReportsItsOutcome (exec i s) := by
  cases hc : faultCause i s with
  | some c =>
    rw [exec_of_faultCause_some hc]
    exact reportsItsOutcome_raise ..
  | none =>
    rw [exec_of_faultCause_none hc]
    by_cases hk : ∃ x, i = .ldVxK x
    · obtain ⟨x, rfl⟩ := hk
      exact reportsItsOutcome_waitKey (x := x) rfl
    · exact reportsItsOutcome_running ((completed_run s fun x hx => hk ⟨x, hx⟩).trans h)

theorem reportsItsOutcome_poll {s : State} {x : Reg} (h : s.run = .waitKey x) : ReportsItsOutcome (poll x s) := by
  cases he : s.env.event with
  | none => exact poll_of_none he ▸ reportsItsOutcome_waitKey h
  | keyTransition k => exact poll_of_keyTransition he ▸ reportsItsOutcome_running rfl
  | quit => exact poll_of_quit he ▸ reportsItsOutcome_halted rfl

/-! ### The invariant -/

theorem wide_toNat (b : Byte) : (wide b).toNat = b.toNat :=
  BitVec.toNat_setWidth_of_le (by decide)

/-- The target of `Bnnn` is the exact sum (40_control_flow.md R107): it fits in `PC`. -/
theorem offsetTarget_toNat (nnn : Addr12) (b : Byte) : (immAddress nnn + wide b).toNat = nnn.toNat + b.toNat := by
  rw [BitVec.toNat_add, immAddress_toNat, wide_toNat]
  omega

/-- A skip from an address in memory, or right after it, takes `PC` to 0x1002 at most. -/
theorem skipTarget_le {pc : Word} (c : Bool) (h : pc.toNat ≤ 0x1000) : (if c then pc + 2 else pc).toNat ≤ 0x10FE := by
  cases c with
  | false => exact Nat.le_trans h (by decide)
  | true =>
    rw [if_pos rfl, BitVec.toNat_add]
    show (pc.toNat + 2) % 65536 ≤ _
    omega

/-- From `PC` right after a word in memory, no instruction takes it past 0x10FE, the farthest target of `Bnnn`. -/
theorem completed_pc_le {i : Instr} {s : State} (hpc : s.pc.toNat ≤ 0x1000) (hframes : s.framesInRange)
    (hi : faultCause i s = none) : (completed i s).pc.toNat ≤ 0x10FE := by
  cases i with
  | seVxKk _ _ | sneVxKk _ _ | seVxVy _ _ | sneVxVy _ _ | skp _ | sknp _ => exact skipTarget_le _ hpc
  | jp nnn | call nnn =>
    refine Nat.le_trans (Nat.le_of_eq (immAddress_toNat nnn)) ?_
    omega
  | jpV0Nnn nnn =>
    refine Nat.le_trans (Nat.le_of_eq (offsetTarget_toNat nnn _)) ?_
    have := (s.jumpOffset nnn).isLt
    omega
  | ret =>
    have h0 : s.sp.val ≠ 0 := by simpa [faultCause] using hi
    have hlt : s.sp.val - 1 < 16 := by omega
    obtain ⟨-, hle⟩ := hframes ⟨s.sp.val - 1, hlt⟩ (by show s.sp.val - 1 < s.sp.val; omega)
    simp only [completed, hlt, getElem?_pos, Option.getD_some]
    exact Nat.le_trans hle (by decide)
  | ldVxMem x =>
    simp only [completed, setI_pc, setPrefix_pc]
    omega
  | _ => exact Nat.le_trans hpc (by decide)

theorem framesInRange_of_le {s t : State} (hstack : t.stack = s.stack) (hsp : t.sp.val ≤ s.sp.val) (h : s.framesInRange) :
    t.framesInRange := by
  intro k hk
  rw [hstack]
  exact h k (Nat.lt_of_lt_of_le hk hsp)

/-- The one new frame is that of a call, and holds the `PC` after the fetch. -/
theorem completed_framesInRange (i : Instr) {s : State} (hpc : 2 ≤ s.pc.toNat ∧ s.pc.toNat ≤ 0x1000)
    (hframes : s.framesInRange) : (completed i s).framesInRange := by
  by_cases hcall : ∃ nnn, i = .call nnn
  · obtain ⟨nnn, rfl⟩ := hcall
    intro k hk
    have hlive : k.val < s.sp.val + 1 := Nat.lt_of_lt_of_le hk (Nat.min_le_left _ _)
    simp only [completed, Vector.getElem_setIfInBounds]
    split
    · exact hpc
    · exact hframes k (by omega)
  · have hnot : ∀ nnn, i ≠ .call nnn := fun nnn h => hcall ⟨nnn, h⟩
    refine framesInRange_of_le (completed_stack s hnot) ?_ hframes
    by_cases hret : i = .ret
    · subst hret
      exact Nat.sub_le _ _
    · rw [completed_sp s hnot hret]

theorem completed_mem_wf (i : Instr) {s : State} (h : s.mem.wf) : (completed i s).mem.wf := by
  cases i with
  | ldBVx x => exact Memory.writeBytes_wf _ _ h
  | ldMemVx x => exact Memory.writeBytes_wf _ _ h
  | ldVxMem x => simpa [completed] using h
  | _ => exact h

theorem completed_inv {i : Instr} {s : State} (hs : s.Inv) (hpc : 2 ≤ s.pc.toNat ∧ s.pc.toNat ≤ 0x1000)
    (hi : faultCause i s = none) : (completed i s).Inv := by
  obtain ⟨hmem, -, hframes, hunits⟩ := hs
  refine ⟨completed_mem_wf i hmem, completed_pc_le hpc.2 hframes hi, completed_framesInRange i hpc hframes, ?_⟩
  rwa [completed_unitsPerSecond]

/-- A step from the invariant completes an instruction at the address after its word, or polls, which changes nothing that the
invariant speaks of. -/
theorem step_inv {s t : State} (hs : s.Inv) (hstep : step s = .next t) : t.Inv := by
  obtain ⟨i, hpc, hi, rfl⟩ | rfl | ⟨x, k, rfl⟩ | rfl := step_eq_next_cases hstep
  · obtain ⟨hmem, -, hframes, hunits⟩ := hs
    have hnext := pc_add_two_toNat hpc
    refine completed_inv ⟨hmem, ?_, hframes, hunits⟩ ?_ hi
    · rw [setPc_pc]
      omega
    · rw [setPc_pc]
      omega
  · exact hs
  · exact hs
  · exact hs

/-! ### The obligations -/

/-- Settles O13: the invariant is inductive as it stands. -/
theorem everyStepKeepsTheInvariant : Obligations.EveryStepKeepsTheInvariant :=
  fun _ _ => step_inv

/-- Settles O12: nothing is listed in memory, and no frame is live. -/
theorem resetMeetsTheInvariant : Obligations.ResetMeetsTheInvariant := by
  refine ⟨Memory.initial_wf defaultFont, by decide, fun k hk => ?_, Nat.succ_pos _⟩
  exact absurd hk (Nat.not_lt_zero _)

/-- Settles O9, by the poll's equation for each event. -/
theorem aPollFollowsTheReportedEvent : Obligations.APollFollowsTheReportedEvent := by
  intro s x hrun
  rw [step_waitKey hrun]
  refine ⟨fun he => ?_, fun k he => ?_, fun he => ?_⟩
  · exact ⟨_, poll_of_none (s := s.sample) he, hrun,
      fun _ => rfl, rfl, rfl, fun _ => rfl, ⟨rfl, rfl⟩, ⟨rfl, rfl⟩, rfl, rfl⟩
  · refine ⟨_, poll_of_keyTransition (s := s.sample) he, rfl, ?_, fun r hr => ?_,
      rfl, rfl, fun _ => rfl, ⟨rfl, rfl⟩, ⟨rfl, rfl⟩, rfl, rfl⟩
    · exact (congrArg BitVec.toNat (setV_getV_same _ x _)).trans (keyByte_toNat k)
    · exact setV_getV_other _ _ hr
  · exact ⟨_, poll_of_quit (s := s.sample) he, rfl,
      fun _ => rfl, rfl, rfl, fun _ => rfl, ⟨rfl, rfl⟩, ⟨rfl, rfl⟩, rfl, rfl⟩

/-- Settles O15: the jump writes back the `PC` that the fetch had moved, and a sample moves none. -/
theorem aSelfJumpChangesOnlyTheSampleAndTheDisplayRecord :
    Obligations.ASelfJumpChangesOnlyTheSampleAndTheDisplayRecord := by
  rintro s ⟨hrun, w, nnn, hw, hi, hpc⟩
  refine ⟨?_, hrun, w, nnn, hw, hi, hpc⟩
  rw [step_running hrun, cycle_of_decodes (s := s.sample) hw hi, exec_jp_eq, ← hpc]
  rfl

/-- Settles O5, by the course of a cycle that fetches an instruction. -/
theorem aStepRunsTheDecodedInstruction : Obligations.AStepRunsTheDecodedInstruction := by
  refine ⟨fun s i hrun hpc hi => ?_, fun s => rfl⟩
  rw [step_running hrun]
  exact cycle_of_decodes (s := s.sample) (readWord_in hpc) hi

/-- Settles O6: the joined bytes and the advanced `PC`, as numbers, are the words of the cycle. -/
theorem theFetchReadsTwoBytesOrFaults : Obligations.TheFetchReadsTwoBytesOrFaults := by
  intro s hrun
  rw [step_running hrun]
  refine ⟨fun hpc i hi => ?_, fun hpc => ?_⟩
  · have hw : joinBytes (s.mem.read s.pc.toNat) (s.mem.read (s.pc.toNat + 1)) =
        BitVec.ofNat 16 ((s.mem.read s.pc.toNat).toNat * 256 + (s.mem.read (s.pc.toNat + 1)).toNat) := by
      rw [← joinBytes_toNat, BitVec.ofNat_toNat, BitVec.setWidth_eq]
    have hnext : s.pc + 2 = BitVec.ofNat 16 (s.pc.toNat + 2) := by
      rw [BitVec.ofNat_add, BitVec.ofNat_toNat, BitVec.setWidth_eq]
      rfl
    rw [← hw] at hi
    rw [← hnext]
    exact cycle_of_decodes (s := s.sample) (readWord_in (Nat.lt_succ_of_le hpc)) hi
  · refine ⟨s.sample.setRun (.faulted (.outOfBounds (if s.pc.toNat > 4095 then s.pc.toNat else s.pc.toNat + 1))),
      rfl, ?_⟩
    exact cycle_of_outside (s := s.sample) hpc

/-- Settles O7, by the course of a cycle that fetches an illegal word. -/
theorem anIllegalWordIsADecodeError : Obligations.AnIllegalWordIsADecodeError := by
  refine ⟨fun s w e hrun hpc hw he => ?_, by decide⟩
  rw [step_running hrun, cycle_of_illegal (s := s.sample) (readWord_in hpc) (hw ▸ he)]
  subst hw
  exact ⟨_, _, rfl, rfl, rfl, rfl, rfl, rfl⟩

/-- Settles O8, by the two run states of the step that have no course. -/
theorem haltedAndFaultedHaveNoStep : Obligations.HaltedAndFaultedHaveNoStep := by
  refine fun s => ⟨fun h => ?_, fun c h => ?_⟩
  · rw [step, h]
  · rw [step, h]

/-- Settles O10: each course of a cycle, and each poll, reports its outcome. -/
theorem everyMicroStepReportsItsOutcome : Obligations.EveryMicroStepReportsItsOutcome := by
  rintro s (hrun | ⟨x, hrun⟩)
  · rw [step_running hrun]
    obtain ⟨a, h⟩ | ⟨w, h⟩ | ⟨i, h⟩ := cycle_cases s.sample <;> rw [h]
    · exact reportsItsOutcome_raise ..
    · exact reportsItsOutcome_raise ..
    · exact reportsItsOutcome_exec i hrun
  · rw [step_waitKey hrun]
    exact reportsItsOutcome_poll hrun

/-- Settles O11: what the sample took is kept to the end of the step. -/
theorem everyMicroStepTakesOneSample : Obligations.EveryMicroStepTakesOneSample := by
  intro s t hstep
  obtain ⟨-, -, -, henv, hpending, hdrawn⟩ := step_sameInstance hstep
  refine ⟨fun e rest hp => ?_, fun hp => ?_⟩
  · simp [henv, hpending, hdrawn, State.nextEnv, hp]
  · simp [henv, hpending, hdrawn, State.nextEnv, hp]

/-- Settles O14: the sample changes none of the three, and the rest of the step none of the sample's. -/
theorem theConfigurationIsConstant : Obligations.TheConfigurationIsConstant := by
  intro s t hstep
  obtain ⟨hquirks, hunits, hfont, -⟩ := step_sameInstance hstep
  exact ⟨hquirks, hunits, hfont⟩

end Sys2Proof.Machine
end

section
/-! Arithmetic, logic and the random byte (41_alu.md): what an instruction that writes a result and then the flag changes, and
the obligations on it. -/

namespace Sys2Proof.Machine

/-! ### Rules of the operations -/

/-- The flag is written last, so `VF` is excepted beside the register of the result. -/
theorem onlyRegs_setVF (s : State) (x : Reg) (result flag : Byte) :
    OnlyRegs (fun r => r = x ∨ r = vf) s (s.setVF x result flag) := by
  refine ⟨fun r hr => ?_, rfl, rfl, fun _ => rfl, ⟨fun _ _ => rfl, rfl⟩,
    ⟨rfl, rfl⟩, ⟨rfl, rfl⟩, rfl, rfl, rfl, rfl, rfl, rfl, rfl⟩
  rw [setVF_getV, if_neg fun h => hr (.inr h), if_neg fun h => hr (.inl h)]

/-- What every instruction with a flag does (41_alu.md R121), once its equation gives the result and the flag. -/
theorem exec_setVF_spec {s : State} {i : Instr} {x : Reg} {result flag : Byte}
    (hexec : exec i s = .next (s.setVF x result flag)) :
    ∃ t, exec i s = .next t ∧ (x ≠ vf → t.getV x = result) ∧ t.getV vf = flag ∧
      OnlyRegs (fun r => r = x ∨ r = vf) s t := by
  refine ⟨_, hexec, fun hx => ?_, ?_, onlyRegs_setVF s x result flag⟩
  · rw [setVF_getV, if_neg hx, if_pos rfl]
  · rw [setVF_getV, if_pos rfl]

theorem flagByte_toNat (p : Prop) [Decidable p] : (flagByte (decide p)).toNat = if p then 1 else 0 := by
  by_cases h : p <;> simp [flagByte, h]

/-- The bit that a right shift shifts out is the remainder. -/
theorem lowBitFlag_toNat (b : Byte) : (lowBitFlag b).toNat = b.toNat % 2 := by
  rw [lowBitFlag, BitVec.getLsbD, Nat.testBit_eq_decide_div_mod_eq, flagByte_toNat]
  split <;> omega

/-- The bit that a left shift shifts out is the top half. -/
theorem highBitFlag_toNat (b : Byte) : (highBitFlag b).toNat = b.toNat / 128 := by
  rw [highBitFlag, BitVec.getLsbD, Nat.testBit_eq_decide_div_mod_eq, flagByte_toNat]
  split <;> omega

/-! ### The instructions, each as one equation -/

theorem exec_addVxVy_eq (s : State) (x y : Reg) : exec (.addVxVy x y) s =
    .next (s.setVF x (s.getV x + s.getV y) (carryFlag (s.getV x) (s.getV y))) := rfl

theorem exec_subVxVy_eq (s : State) (x y : Reg) : exec (.subVxVy x y) s =
    .next (s.setVF x (s.getV x - s.getV y) (noBorrowFlag (s.getV x) (s.getV y))) := rfl

theorem exec_subnVxVy_eq (s : State) (x y : Reg) : exec (.subnVxVy x y) s =
    .next (s.setVF x (s.getV y - s.getV x) (noBorrowFlag (s.getV y) (s.getV x))) := rfl

theorem exec_shrVxVy_eq (s : State) (x y : Reg) : exec (.shrVxVy x y) s =
    .next (s.setVF x (s.shiftSource x y >>> 1) (lowBitFlag (s.shiftSource x y))) := rfl

theorem exec_shlVxVy_eq (s : State) (x y : Reg) : exec (.shlVxVy x y) s =
    .next (s.setVF x (s.shiftSource x y <<< 1) (highBitFlag (s.shiftSource x y))) := rfl

/-- The difference modulo 256, on numbers. -/
theorem sub_toNat_byte (a b : Byte) : (a - b).toNat = (a.toNat + 256 - b.toNat) % 256 := by
  rw [BitVec.toNat_sub]
  omega

/-- What a subtraction does, once its equation gives the minuend `a` and the subtrahend `b`. -/
theorem exec_sub_spec {s : State} {i : Instr} {x : Reg} {a b : Byte}
    (hexec : exec i s = .next (s.setVF x (a - b) (noBorrowFlag a b))) :
    ∃ t, exec i s = .next t ∧ (x ≠ vf → (t.getV x).toNat = (a.toNat + 256 - b.toNat) % 256) ∧
      (t.getV vf).toNat = (if a.toNat ≥ b.toNat then 1 else 0) ∧ OnlyRegs (fun r => r = x ∨ r = vf) s t := by
  obtain ⟨t, ht, hx, hflag, hframe⟩ := exec_setVF_spec hexec
  refine ⟨t, ht, fun hne => ?_, ?_, hframe⟩
  · rw [hx hne, sub_toNat_byte]
  · rw [hflag, noBorrowFlag, flagByte_toNat]

/-! ### The obligations -/

/-- Settles O27: the flag is the carry of the exact sum, taken before the result is written. -/
theorem addSetsTheCarryFlag : Obligations.AddSetsTheCarryFlag := by
  intro s x y
  obtain ⟨t, ht, hx, hflag, hframe⟩ := exec_setVF_spec (exec_addVxVy_eq s x y)
  refine ⟨t, ht, fun hne => ?_, ?_, hframe⟩
  · rw [hx hne]
    exact BitVec.toNat_add _ _
  · rw [hflag, carryFlag, flagByte_toNat]

/-- Settles O28, by the rule of the subtractions with the operands in either order. -/
theorem subtractionsSetTheNoBorrowFlag : Obligations.SubtractionsSetTheNoBorrowFlag :=
  fun s x y => ⟨exec_sub_spec (exec_subVxVy_eq s x y), exec_sub_spec (exec_subnVxVy_eq s x y)⟩

/-- Settles O29, by the rule of the flag writers with the source that the quirk selects. -/
theorem shiftsMoveOneBitIntoTheFlag : Obligations.ShiftsMoveOneBitIntoTheFlag := by
  rintro s x y _ rfl
  constructor
  · obtain ⟨t, ht, hx, hflag, hframe⟩ := exec_setVF_spec (exec_shrVxVy_eq s x y)
    refine ⟨t, ht, fun hne => ?_, ?_, hframe⟩
    · rw [hx hne, BitVec.toNat_ushiftRight, Nat.shiftRight_eq_div_pow]
      rfl
    · rw [hflag, lowBitFlag_toNat]
      rfl
  · obtain ⟨t, ht, hx, hflag, hframe⟩ := exec_setVF_spec (exec_shlVxVy_eq s x y)
    refine ⟨t, ht, fun hne => ?_, ?_, hframe⟩
    · rw [hx hne, BitVec.toNat_shiftLeft, Nat.shiftLeft_eq, Nat.mul_comm]
      rfl
    · rw [hflag, highBitFlag_toNat]
      rfl

/-- Settles O26, by the rule of the register writes: each bit of the result is the operation on the two bits. -/
theorem logicWorksBitByBitAndSetsNoFlag : Obligations.LogicWorksBitByBitAndSetsNoFlag := by
  intro s x y
  refine ⟨⟨_, rfl, onlyRegs_setV s x _, fun k _ => ?_⟩, ⟨_, rfl, onlyRegs_setV s x _, fun k _ => ?_⟩,
    ⟨_, rfl, onlyRegs_setV s x _, fun k _ => ?_⟩⟩
  · rw [setV_getV_same, BitVec.getLsbD_or]
  · rw [setV_getV_same, BitVec.getLsbD_and]
  · rw [setV_getV_same, BitVec.getLsbD_xor]

/-- Settles O30, by the rule of the register writes: a mask leaves no bit outside itself. -/
theorem randomByteIsMasked : Obligations.RandomByteIsMasked := by
  intro s x kk
  have hexec : exec (.rndVxKk x kk) s = .next (s.setV x (s.env.rnd &&& kk)) := rfl
  obtain ⟨t, ht, hx, hframe⟩ := exec_setV_spec hexec
  refine ⟨t, ht, fun k _ => ?_, ?_, hframe⟩
  · rw [hx, BitVec.getLsbD_and]
  · rw [hx, BitVec.and_assoc, BitVec.and_not_self]
    exact BitVec.and_zero

end Sys2Proof.Machine
end

section
/-! Calls, returns, the offset jump and the keypad (40_control_flow.md, 44_keypad.md), and the obligations on them. -/

namespace Sys2Proof.Machine

/-! ### Rules of the operations -/

/-- The register that `Bnnn` names under its quirk (30_encoding.md R75). -/
theorem addressNibble_val (nnn : Addr12) : (addressNibble nnn).val = nnn.toNat / 256 := by
  show (nnn.extractLsb' 8 4).toNat = _
  rw [BitVec.extractLsb'_toNat, Nat.shiftRight_eq_div_pow]
  omega

/-! ### The obligations -/

/-- Settles O17: the newest live frame is that of the slot below the count. -/
theorem returnPopsTheNewestFrame : Obligations.ReturnPopsTheNewestFrame := by
  refine fun s => ⟨fun k hk => ?_, fun h => ?_⟩
  · exact ⟨_, exec_ret_next s k.isLt hk, rfl, rfl, rfl,
      fun _ => rfl, rfl, fun _ => rfl, ⟨fun _ _ => rfl, rfl⟩, ⟨rfl, rfl⟩, rfl, rfl, rfl, rfl, rfl, rfl, rfl⟩
  · exact ⟨_, exec_ret_fault s h, rfl, rfl, fun _ => rfl, rfl⟩

/-- Settles O19: the slot that the count names takes the `PC` after the fetch. -/
theorem callPushesTheAddressAfterIt : Obligations.CallPushesTheAddressAfterIt := by
  refine fun s nnn => ⟨fun k hk => ?_, fun h => ?_⟩
  · refine ⟨_, exec_call_next s nnn (hk ▸ k.isLt), ?_, fun j hj => ?_, ?_, immAddress_toNat nnn,
      fun _ => rfl, rfl, fun _ => rfl, ⟨fun _ _ => rfl, rfl⟩, ⟨rfl, rfl⟩, rfl, rfl, rfl, rfl, rfl, rfl, rfl⟩
    · rw [Vector.getElem_set, if_pos hk]
    · rw [Vector.getElem_set, if_neg fun h => hj (Fin.ext (h.symm.trans hk))]
    · exact congrArg (· + 1) hk
  · exact ⟨_, exec_call_fault s nnn h, rfl, rfl, rfl, rfl⟩

/-- Settles O20: the return pops the slot that the call pushed. -/
theorem returnAfterCallResumesAfterTheCall : Obligations.ReturnAfterCallResumesAfterTheCall := by
  intro s t u nnn hcall hsp hstack
  obtain ⟨hlt, rfl⟩ := exec_call_eq_next s hcall
  refine ⟨_, exec_ret_next u hlt (congrArg Fin.val hsp), ?_, rfl⟩
  simp [hstack]

/-- Settles O23: the sum of `nnn` and a byte fits in `PC`, and the quirk names the register by the high nibble. -/
theorem offsetJumpAddsTheSelectedRegister : Obligations.OffsetJumpAddsTheSelectedRegister := by
  intro s nnn
  have hexec : exec (.jpV0Nnn nnn) s = .next (s.setPc (immAddress nnn + wide (s.jumpOffset nnn))) := rfl
  refine ⟨_, hexec, onlyPc_setPc s _, fun hq => ?_, fun x hq hx => ?_⟩
  · rw [setPc_pc, offsetTarget_toNat, State.jumpOffset, hq]
    rfl
  · have hreg : addressNibble nnn = x := by
      apply Fin.ext
      rw [hx, addressNibble_val]
    rw [setPc_pc, offsetTarget_toNat, State.jumpOffset, if_pos hq, hreg]

/-- Settles O49, by the rule of the skips with the key's bit, and with its opposite, as the condition. -/
theorem keySkipsFollowTheKeyState : Obligations.KeySkipsFollowTheKeyState := by
  intro s x hk
  constructor
  · have hexec := (exec_skp_eq s x).trans (if_pos hk)
    obtain ⟨t, ht, hpc, hframe⟩ := exec_skip_spec hexec Iff.rfl
    exact ⟨t, ht, hframe, hpc⟩
  · have hexec := (exec_sknp_eq s x).trans (if_pos hk)
    obtain ⟨t, ht, hpc, hframe⟩ := exec_skip_spec hexec Bool.not_iff_not
    exact ⟨t, ht, hframe, hpc.trans (ite_not _ _ _)⟩

/-- Settles O50: the one field that the instruction writes is `RUN`. -/
theorem keyWaitIsEntered : Obligations.KeyWaitIsEntered := by
  intro s x
  exact ⟨s.setRun (.waitKey x), rfl, rfl,
    fun _ => rfl, rfl, rfl, fun _ => rfl, ⟨fun _ _ => rfl, rfl⟩, ⟨rfl, rfl⟩, ⟨rfl, rfl⟩,
    rfl, rfl, rfl, rfl, rfl, rfl⟩

end Sys2Proof.Machine
end

section
/-! The index register and memory (42_index_memory.md): what a range store and a range load leave, and the obligations on
them. -/

namespace Sys2Proof.Machine

/-! ### Rules of the operations -/

/-- A frame that excepts more bytes says less. -/
theorem OnlyIndexRegsMemory.mono {p : Reg → Prop} {q q' : Nat → Prop} {s t : State} (h : OnlyIndexRegsMemory p q s t)
    (hq : ∀ a, q a → q' a) : OnlyIndexRegsMemory p q' s t := by
  obtain ⟨hregs, hmem, hrest⟩ := h
  exact ⟨hregs, fun a ha => hmem a fun h => ha (hq a h), hrest⟩

/-- The frame does not speak of `I`. -/
theorem OnlyIndexRegsMemory.advanceI {p : Reg → Prop} {q : Nat → Prop} {s t : State} (h : OnlyIndexRegsMemory p q s t)
    (n : Nat) : OnlyIndexRegsMemory p q s (t.advanceI n) := by
  rw [advanceI_eq_setI]
  exact h

theorem onlyIndexRegsMemory_setI_setV (s : State) (w : Word) (x : Reg) (b : Byte) :
    OnlyIndexRegsMemory (· = x) (fun _ => False) s ((s.setI w).setV x b) :=
  ⟨fun _ hr => setV_getV_other _ b hr, fun _ _ => rfl, rfl, ⟨fun _ _ => rfl, rfl⟩,
    ⟨rfl, rfl⟩, ⟨rfl, rfl⟩, rfl, rfl, rfl, rfl, rfl, rfl, rfl⟩

/-- A range store inside memory changes the bytes of its range alone. -/
theorem onlyIndexRegsMemory_store (s : State) {a : Nat} {bs : List Byte} (h : a + bs.length ≤ 4096) :
    OnlyIndexRegsMemory (fun _ => False) (fun a' => a ≤ a' ∧ a' < a + bs.length) s
      (s.setMem (s.mem.writeBytes a bs)) := by
  refine ⟨fun _ _ => rfl, fun a' ha' => ?_, rfl, ⟨fun _ _ => rfl, rfl⟩,
    ⟨rfl, rfl⟩, ⟨rfl, rfl⟩, rfl, rfl, rfl, Memory.writeBytes_font .., rfl, rfl, rfl⟩
  rw [setMem_mem, Memory.read_writeBytes _ _ _ _ h]
  split
  · rw [List.getElem?_eq_none (by omega)]
    rfl
  · rfl

theorem Memory.read_writeBytes_add (m : Memory) {a k : Nat} {bs : List Byte} (h : a + bs.length ≤ 4096)
    (hk : k < bs.length) : (m.writeBytes a bs).read (a + k) = bs[k] := by
  rw [read_writeBytes _ _ _ _ h, if_pos (Nat.le_add_right a k), Nat.add_sub_cancel_left, List.getElem?_eq_getElem hk]
  rfl

/-- Loading registers from bytes that are no more than the registers `V[0]` to `V[x]` leaves the others. -/
theorem onlyIndexRegsMemory_setPrefix (s : State) {x : Reg} {bs : List Byte} (h : bs.length = x.val + 1) :
    OnlyIndexRegsMemory (· ≤ x) (fun _ => False) s (s.setPrefix bs) := by
  refine ⟨fun r hr => ?_, fun _ _ => by simp, by simp, ⟨fun _ _ => by simp, by simp⟩,
    ⟨by simp, by simp⟩, ⟨by simp, by simp⟩, by simp, by simp, by simp, by simp, by simp, by simp, by simp⟩
  have hlt : x.val < r.val := not_le.1 hr
  rw [setPrefix_getV, List.getElem?_eq_none (by omega)]
  rfl

/-- `I` advanced past `n` bytes, as a number, where it does not wrap. -/
theorem advanceI_i_toNat {s : State} {n : Nat} (h : s.i.toNat + n < 65536) :
    (s.advanceI n).i.toNat = if s.quirks.increment then s.i.toNat + n else s.i.toNat := by
  rw [advanceI_i]
  split
  · rw [BitVec.toNat_add, BitVec.toNat_ofNat]
    omega
  · rfl

/-! ### The instructions on ranges -/

/-- What a bulk store that answers a next state has stored. -/
theorem exec_ldMemVx_eq_next {s t : State} {x : Reg} (h : exec (.ldMemVx x) s = .next t) :
    s.i.toNat + x.val ≤ 4095 ∧ ∀ k : Reg, k ≤ x → t.mem.read (s.i.toNat + k.val) = s.getV k := by
  rw [exec_ldMemVx_eq] at h
  obtain ⟨hr, rfl⟩ := next_of_ite s h
  refine ⟨hr, fun k hk => ?_⟩
  have hlen := getPrefix_length s x
  have hk' : k.val ≤ x.val := hk
  rw [advanceI_mem, setMem_mem, Memory.read_writeBytes_add _ (by omega) (by omega)]
  have hget := getPrefix_getElem? s x k.val
  rw [dif_pos hk', List.getElem?_eq_getElem (by omega)] at hget
  exact Option.some.inj hget

/-- What a bulk load leaves in the registers it loads. -/
theorem setPrefix_readBytes_getV (s : State) {m : Memory} {a : Nat} {x k : Reg} (hk : k ≤ x) :
    (s.setPrefix (m.readBytes a (x.val + 1))).getV k = m.read (a + k.val) := by
  have hlt : k.val < x.val + 1 := Nat.lt_succ_of_le hk
  rw [setPrefix_getV, Memory.readBytes_getElem?, if_pos hlt]
  rfl

/-! ### The obligations -/

/-- Settles O33: the sum of words is the sum modulo 65536, and `VF` is written with itself where it is not set. -/
theorem addToIndexWrapsAt65536 : Obligations.AddToIndexWrapsAt65536 := by
  intro s x
  refine ⟨_, exec_addIVx_eq s x, ?_, ?_, onlyIndexRegsMemory_setI_setV s _ vf _⟩
  · show (s.i + wide (s.getV x)).toNat = _
    rw [BitVec.toNat_add, wide_toNat]
  · rw [completed, setV_getV_same]
    simp [indexPasses]

/-- Settles O34: the last glyph's address fits in `I`. -/
theorem glyphAddressUsesTheLowNibble : Obligations.GlyphAddressUsesTheLowNibble := by
  intro s x
  refine ⟨s.setI (glyphAddress (s.getV x)), rfl, ?_, onlyIndexRegsMemory_setI s _⟩
  rw [setI_i, glyphAddress, fontBase, BitVec.toNat_ofNat]
  omega

/-- Settles O35: the three stored bytes are the digits, each below 10 and so a byte. -/
theorem decimalDigitsAreStoredAtTheIndex : Obligations.DecimalDigitsAreStoredAtTheIndex := by
  intro s x hr
  have hlen : (decimalDigits (s.getV x)).length = 3 := rfl
  have hin : s.i.toNat + (decimalDigits (s.getV x)).length ≤ 4096 := by omega
  have hbyte := (s.getV x).isLt
  have hdigit : ∀ k (hk : k < 3), (s.mem.writeBytes s.i.toNat (decimalDigits (s.getV x))).read (s.i.toNat + k) =
      (decimalDigits (s.getV x))[k] := fun k hk => Memory.read_writeBytes_add s.mem hin hk
  refine ⟨_, (exec_ldBVx_eq s x).trans (if_pos hr), ?_, ?_, ?_, rfl,
    (onlyIndexRegsMemory_store s hin).mono fun a ha => ?_⟩
  · refine (congrArg BitVec.toNat (hdigit 0 (by decide))).trans (Nat.mod_eq_of_lt ?_)
    omega
  · refine (congrArg BitVec.toNat (hdigit 1 (by decide))).trans (Nat.mod_eq_of_lt ?_)
    omega
  · refine (congrArg BitVec.toNat (hdigit 2 (by decide))).trans (Nat.mod_eq_of_lt ?_)
    omega
  · omega

/-- Settles O36: a range store of `V[0]` to `V[x]`, after which `I` cannot wrap. -/
theorem bulkStoreWritesThePrefix : Obligations.BulkStoreWritesThePrefix := by
  intro s x hr
  have hexec := (exec_ldMemVx_eq s x).trans (if_pos hr)
  have hlen := getPrefix_length s x
  have hx := x.isLt
  refine ⟨_, hexec, (exec_ldMemVx_eq_next hexec).2, ?_,
    ((onlyIndexRegsMemory_store s (by omega)).mono fun a ha => ?_).advanceI _⟩
  · exact advanceI_i_toNat (by rw [setMem_i]; omega)
  · omega

/-- Settles O37: a range load into `V[0]` to `V[x]`, after which `I` cannot wrap. -/
theorem bulkLoadReadsThePrefix : Obligations.BulkLoadReadsThePrefix := by
  intro s x hr
  have hx := x.isLt
  refine ⟨_, (exec_ldVxMem_eq s x).trans (if_pos hr), fun k hk => ?_, ?_,
    (onlyIndexRegsMemory_setPrefix s (Memory.readBytes_length ..)).advanceI _⟩
  · rw [advanceI_getV, setPrefix_readBytes_getV s hk]
  · rw [advanceI_i_toNat (by rw [setPrefix_i]; omega), setPrefix_quirks, setPrefix_i]
    rfl

/-- Settles O38: the load reads at each address what the store wrote there. -/
theorem storeThenLoadRestoresTheRegisters : Obligations.StoreThenLoadRestoresTheRegisters := by
  intro s t u x hstore hmem hi
  obtain ⟨hr, hstored⟩ := exec_ldMemVx_eq_next hstore
  refine ⟨_, (exec_ldVxMem_eq u x).trans (if_pos (hi ▸ hr)), fun k hk => ?_⟩
  rw [advanceI_getV, setPrefix_readBytes_getV u hk, hmem, hi, hstored k hk]

/-- Settles O41: both bytes of the word are bytes that the store wrote. -/
theorem aStoreIsSeenByTheNextFetch : Obligations.AStoreIsSeenByTheNextFetch := by
  intro s t x k hstore hk k' hk'
  obtain ⟨hr, hstored⟩ := exec_ldMemVx_eq_next hstore
  have hlt : k.val < x.val := hk
  have hle : k' ≤ x := by
    show k'.val ≤ x.val
    omega
  rw [readWord_in (by omega), hstored k (le_of_lt hk), ← hstored k' hle, hk', Nat.add_assoc]

/-- Settles O40, by the range operations on a range of one byte. -/
theorem oneByteIsReadAndWritten : Obligations.OneByteIsReadAndWritten := by
  refine fun s a b => ⟨fun ha => ⟨?_, ?_⟩, fun ha => ⟨?_, ?_⟩⟩
  · rw [load_eq, if_pos (by omega)]
    rfl
  · have hin : a + [b].length ≤ 4096 := Nat.succ_le_succ ha
    obtain ⟨-, hmem, hpc, hdisplay, hrest⟩ := onlyIndexRegsMemory_store s hin
    refine ⟨_, (store_eq s a [b]).trans (if_pos (.inr hin)), Memory.read_writeBytes_add s.mem (k := 0) hin Nat.one_pos,
      fun a' ha' => hmem a' ?_, fun _ => rfl, rfl, hpc, hdisplay, hrest⟩
    rintro ⟨hle, hlt⟩
    exact ha' (Nat.le_antisymm (Nat.le_of_lt_succ hlt) hle)
  · rw [load_eq, if_neg (by omega), Nat.max_eq_left (by omega)]
  · rw [store_eq, if_neg (by simp; omega), Nat.max_eq_left (by omega)]

end Sys2Proof.Machine
end

section
/-! The display (43_display.md): what a draw and a clear leave, the commands of a draw in their order, and the obligations on
them. -/

namespace Sys2Proof.Machine

/-! ### The end of a draw -/

@[simp] theorem finishDraw_fb (s : State) (d : Drawing) : (s.finishDraw d).fb = d.fb := rfl

@[simp] theorem finishDraw_display (s : State) (d : Drawing) :
    (s.finishDraw d).display = s.display ++ (d.commands ++ [.present]) := rfl

@[simp] theorem finishDraw_getV_vf (s : State) (d : Drawing) : (s.finishDraw d).getV vf = flagByte d.flag :=
  setV_getV_same _ vf _

theorem finishDraw_getV_other (s : State) (d : Drawing) {r : Reg} (h : r ≠ vf) : (s.finishDraw d).getV r = s.getV r :=
  setV_getV_other _ _ h

/-- The end of a draw touches the pixels, `VF` and the display port alone. -/
theorem sameRest_finishDraw (s : State) (d : Drawing) : SameRest s (s.finishDraw d) :=
  ⟨⟨rfl, rfl⟩, ⟨rfl, rfl⟩, rfl, rfl, rfl, rfl, rfl, rfl, rfl⟩

/-- A pixel that is on meets a sprite bit (43_display.md R174). -/
def collides (fb : Frame) (bit : Nat → Nat → Bool) : Prop :=
  ∃ (r : Fin 32) (c : Fin 64), fb.get r c = true ∧ bit r.val c.val = true

theorem flagByte_drawPlaces_of_collides {fb : Frame} {x0 y0 : Nat} {sprite : List Byte}
    (h : collides fb (spriteBit sprite x0 y0)) : flagByte (drawPlaces fb (spritePlaces x0 y0 sprite)).flag = 1 := by
  rw [(drawPlaces_flag fb x0 y0 sprite).2 h]
  rfl

theorem flagByte_drawPlaces_of_not_collides {fb : Frame} {x0 y0 : Nat} {sprite : List Byte}
    (h : ¬ collides fb (spriteBit sprite x0 y0)) : flagByte (drawPlaces fb (spritePlaces x0 y0 sprite)).flag = 0 := by
  rw [Bool.eq_false_iff.2 fun hf => h ((drawPlaces_flag fb x0 y0 sprite).1 hf)]
  rfl

/-- Drawing the same sprite twice restores every pixel: the two exclusive ors cancel. -/
theorem drawPlaces_twice_fb (fb : Frame) (x0 y0 : Nat) (sprite : List Byte) :
    (drawPlaces (drawPlaces fb (spritePlaces x0 y0 sprite)).fb (spritePlaces x0 y0 sprite)).fb = fb := by
  apply Frame.ext_get
  intro r c
  rw [drawPlaces_get, drawPlaces_get, Bool.xor_assoc, Bool.xor_self, Bool.xor_false]

/-- A draw from where a draw ended, with registers that the flag did not overwrite: the same sprite at the same place. -/
theorem exec_drw_finishDraw (s : State) (d : Drawing) {x y : Reg} {n : Nat} (hx : x ≠ vf) (hy : y ≠ vf)
    (hr : n = 0 ∨ s.i.toNat + n - 1 ≤ 4095) :
    exec (.drw x y n) (s.finishDraw d) = .next ((s.finishDraw d).finishDraw
      (drawPlaces d.fb (spritePlaces (s.drawColumn x) (s.drawRow y) (s.mem.readBytes s.i.toNat n)))) := by
  have hcol : (s.finishDraw d).drawColumn x = s.drawColumn x := by
    rw [State.drawColumn, finishDraw_getV_other s d hx, State.drawColumn]
  have hrow : (s.finishDraw d).drawRow y = s.drawRow y := by
    rw [State.drawRow, finishDraw_getV_other s d hy, State.drawRow]
  rw [exec_drw_eq, hcol, hrow]
  exact if_pos hr

/-! ### The commands of a draw -/

/-- The commands for the places of one sprite row, by the bits of its byte. -/
theorem rowPlaces_flatMap_commands (fb : Frame) (x0 y : Nat) (b : Byte) :
    ((rowPlaces x0 y b).flatMap fun p => [.getPixel p.1 p.2, .setPixel p.1 p.2 (!fb.get p.1 p.2)]) =
      (List.range 8).flatMap fun c => toggleCommands fb (b.getLsbD (7 - c)) y (x0 + c) := by
  rw [rowPlaces, List.filterMap_eq_flatMap_toList, List.flatMap_assoc]
  refine List.flatMap_congr fun c _ => ?_
  unfold toggleCommands
  by_cases hin : y < 32 ∧ x0 + c < 64
  · by_cases hbit : b.getLsbD (7 - c) = true
    · simp [hin, hbit]
    · simp [hin, hbit]
  · have hout : ¬ (b.getLsbD (7 - c) = true ∧ y < 32 ∧ x0 + c < 64) := fun h => hin h.2
    rw [dif_neg hin, dif_neg hout]
    rfl

theorem Memory.readBytes_succ (m : Memory) (a n : Nat) : m.readBytes a (n + 1) = m.read a :: m.readBytes (a + 1) n := by
  simp only [readBytes, List.range_succ_eq_map, List.map_cons, List.map_map]
  refine congrArg _ (List.map_congr_left fun k _ => ?_)
  rw [Function.comp_apply, Nat.succ_eq_add_one, Nat.add_comm k 1, Nat.add_assoc]

/-- The places of a sprite in memory, row by row. -/
theorem spritePlaces_readBytes (m : Memory) (x0 y0 a n : Nat) :
    spritePlaces x0 y0 (m.readBytes a n) =
      (List.range n).flatMap fun r => rowPlaces x0 (y0 + r) (m.read (a + r)) := by
  induction n generalizing a y0 with
  | zero => rfl
  | succ n ih =>
    rw [Memory.readBytes_succ, spritePlaces, ih, List.range_succ_eq_map, List.flatMap_cons, List.flatMap_map]
    refine congrArg _ (List.flatMap_congr fun k _ => ?_)
    rw [Nat.succ_eq_add_one, Nat.add_comm k 1, Nat.add_assoc, Nat.add_assoc]

/-! ### The obligations -/

/-- Settles O44: the store becomes the display that is off, and one command is issued. -/
theorem clearTurnsEveryPixelOff : Obligations.ClearTurnsEveryPixelOff :=
  fun s => ⟨(s.setFb Frame.off).emit [.clear], rfl, Frame.get_off, rfl, fun _ => rfl, rfl, rfl, fun _ => rfl,
    ⟨rfl, rfl⟩, ⟨rfl, rfl⟩, rfl, rfl, rfl, rfl, rfl, rfl, rfl⟩

/-- Settles O45: the pixels and the flag are those of the places that the sprite toggles. -/
theorem drawTogglesTheSpriteBits : Obligations.DrawTogglesTheSpriteBits := by
  rintro s x y n hr _ rfl
  exact ⟨_, (exec_drw_eq s x y n).trans (if_pos hr), drawPlaces_get s.fb _ _ _,
    fun h => (finishDraw_getV_vf s _).trans (flagByte_drawPlaces_of_collides h),
    fun h => (finishDraw_getV_vf s _).trans (flagByte_drawPlaces_of_not_collides h),
    fun _ hreg => finishDraw_getV_other s _ hreg, rfl, rfl, fun _ => rfl, sameRest_finishDraw s _⟩

/-- Settles O60: the places of the sprite, row by row and bit by bit, give the commands in their order. -/
theorem drawIssuesItsPixelCommandsInOrder : Obligations.DrawIssuesItsPixelCommandsInOrder := by
  rintro s x y n hr x0 y0 rfl rfl
  refine ⟨_, (exec_drw_eq s x y n).trans (if_pos hr), ?_⟩
  rw [finishDraw_display, drawPlaces_commands, spritePlaces_readBytes, List.flatMap_assoc, List.append_assoc]
  simp only [rowPlaces_flatMap_commands]
  rfl

/-- Settles O46: a draw's commands before its end hold no `present()`, and only a clear issues another command. -/
theorem onlyDrawPresentsAndExactlyOnce : Obligations.OnlyDrawPresentsAndExactlyOnce := by
  intro i s t hexec
  obtain ⟨-, rfl⟩ := exec_eq_next hexec
  by_cases hd : ∃ x y n, i = .drw x y n
  · obtain ⟨x, y, n, rfl⟩ := hd
    refine ⟨_, finishDraw_display s _, fun _ _ _ _ => ⟨?_, List.getLast?_concat ..⟩, fun h => absurd rfl (h x y n)⟩
    rw [List.count_append, List.count_eq_zero.2 (drawPlaces_present s.fb _)]
    rfl
  · have hnot : ∀ x y n, i ≠ .drw x y n := fun x y n h => hd ⟨x, y, n, h⟩
    by_cases hc : i = .cls
    · subst hc
      exact ⟨[.clear], rfl, fun x y n h => absurd h (hnot x y n), fun _ => by simp⟩
    · refine ⟨[], ?_, fun x y n h => absurd h (hnot x y n), fun _ => List.not_mem_nil⟩
      rw [completed_display s hc hnot, List.append_nil]

/-- Settles O47: the second draw meets the pixels that the first turned on, and turns each back. -/
theorem drawingTwiceRestoresTheDisplay : Obligations.DrawingTwiceRestoresTheDisplay := by
  rintro s t x y n hx hy hfirst _ rfl
  rw [exec_drw_eq] at hfirst
  obtain ⟨hr, rfl⟩ := next_of_ite s hfirst
  refine ⟨_, exec_drw_finishDraw s _ hx hy hr, drawPlaces_twice_fb .., fun hoff hshows => ⟨?_, ?_⟩⟩
  · refine (finishDraw_getV_vf s _).trans (flagByte_drawPlaces_of_not_collides ?_)
    rintro ⟨r, c, hon, hbit⟩
    rw [hoff r c hbit] at hon
    cases hon
  · refine (finishDraw_getV_vf _ _).trans (flagByte_drawPlaces_of_collides ?_)
    obtain ⟨r, c, hbit⟩ := hshows
    refine ⟨r, c, ?_, hbit⟩
    rw [drawPlaces_get, hoff r c hbit]
    exact (Bool.false_xor _).trans hbit

end Sys2Proof.Machine
end

section
/-! The timers (45_timers.md): the displayed value as a function of the time, and the obligations on it. -/

namespace Sys2Proof.Machine

/-! ### The displayed value of a timer (R202) -/

theorem elapsed_of_le {t t0 : Nat} (h : t0 ≤ t) : elapsed t t0 = t - t0 := if_pos h

theorem elapsed_eq_zero {t t0 : Nat} (h : t ≤ t0) : elapsed t t0 = 0 := by
  unfold elapsed
  split <;> omega

theorem elapsed_mono {t t' : Nat} (t0 : Nat) (h : t ≤ t') : elapsed t t0 ≤ elapsed t' t0 := by
  unfold elapsed
  split <;> split <;> omega

theorem displayed_of_le {d : Timer} {t : Nat} (u : Nat) (h : d.setTime ≤ t) :
    d.displayed u t = d.setValue.toNat - (t - d.setTime) * 60 / u := by
  rw [Timer.displayed, elapsed_of_le h, ticks]

theorem displayed_le (d : Timer) (u t : Nat) : d.displayed u t ≤ d.setValue.toNat := Nat.sub_le _ _

theorem displayed_antitone (d : Timer) (u : Nat) {t t' : Nat} (h : t ≤ t') : d.displayed u t' ≤ d.displayed u t :=
  Nat.sub_le_sub_left (Nat.div_le_div_right (Nat.mul_le_mul_right 60 (elapsed_mono d.setTime h))) _

theorem displayed_before {d : Timer} {t : Nat} (u : Nat) (h : t ≤ d.setTime) : d.displayed u t = d.setValue.toNat := by
  rw [Timer.displayed, elapsed_eq_zero h, ticks, Nat.zero_mul, Nat.zero_div, Nat.sub_zero]

/-- From the rounded-up time of `setValue` ticks on, the timer has run down. -/
theorem displayed_eq_zero {d : Timer} {u t : Nat} (hu : 0 < u)
    (h : d.setTime + (d.setValue.toNat * u + 59) / 60 ≤ t) : d.displayed u t = 0 := by
  rw [displayed_of_le u (by omega)]
  apply Nat.sub_eq_zero_of_le
  rw [Nat.le_div_iff_mul_le hu]
  omega

/-- `e` units after a timer is set. -/
theorem displayed_after (v : Byte) (t0 u e : Nat) :
    (⟨v, t0⟩ : Timer).displayed u (t0 + e) = v.toNat - e * 60 / u := by
  rw [displayed_of_le u (Nat.le_add_right t0 e), Nat.add_sub_cancel_left]

/-- Before its first tick a timer displays the value set. -/
theorem displayed_after_of_lt (v : Byte) (t0 : Nat) {u e : Nat} (h : e * 60 < u) :
    (⟨v, t0⟩ : Timer).displayed u (t0 + e) = v.toNat := by
  rw [displayed_after, Nat.div_eq_of_lt h, Nat.sub_zero]

/-- With `p` units to a tick, `k` ticks take `k` from the value. -/
theorem displayed_after_ticks (v : Byte) (t0 k : Nat) {p : Nat} (hp : 0 < p) :
    (⟨v, t0⟩ : Timer).displayed (60 * p) (t0 + k * p) = v.toNat - k := by
  have hticks : k * p * 60 = k * (60 * p) := by ring
  rw [displayed_after, hticks, Nat.mul_div_cancel _ (by omega)]

theorem dtVal_toNat (s : State) (t : Nat) : (BitVec.ofNat 8 (s.dtVal t)).toNat = s.dtVal t := by
  rw [BitVec.toNat_ofNat]
  exact Nat.mod_eq_of_lt (Nat.lt_of_le_of_lt (displayed_le s.dt s.unitsPerSecond t) s.dt.setValue.isLt)

/-- A timer that was set at `now` loses one each tick. -/
theorem displayed_loses_each_tick (v : Byte) (now : Nat) {u : Nat} (hu : 0 < u) :
    (∀ e, (⟨v, now⟩ : Timer).displayed u (now + e) = v.toNat - e * 60 / u) ∧
    (∀ e, e * 60 < u → (⟨v, now⟩ : Timer).displayed u (now + e) = v.toNat) ∧
    ∀ p, u = 60 * p → (∀ k, (⟨v, now⟩ : Timer).displayed u (now + k * p) = v.toNat - k) ∧
      (⟨v, now⟩ : Timer).displayed u (now + p - 1) = v.toNat := by
  refine ⟨displayed_after v now u, fun e => displayed_after_of_lt v now, ?_⟩
  rintro p rfl
  have hp : 0 < p := by omega
  refine ⟨fun k => displayed_after_ticks v now k hp, ?_⟩
  rw [Nat.add_sub_assoc hp]
  exact displayed_after_of_lt v now (by omega)

/-! ### The obligations -/

/-- Settles O51, by the rule of the register writes with the displayed value, which fits in a byte. -/
theorem delayTimerIsReadAtTheTimeOfTheStep : Obligations.DelayTimerIsReadAtTheTimeOfTheStep := by
  intro s x
  have hexec : exec (.ldVxDt x) s = .next (s.setV x (BitVec.ofNat 8 (s.dtVal s.env.now))) := rfl
  obtain ⟨t, ht, hx, hframe⟩ := exec_setV_spec hexec
  have hval : (t.getV x).toNat = s.dtVal s.env.now := by rw [hx, dtVal_toNat]
  refine ⟨t, ht, hval, fun hle => ?_, fun hlt => ?_, hframe⟩
  · rw [hval]
    exact displayed_of_le _ hle
  · apply BitVec.eq_of_toNat_eq
    rw [hval]
    exact displayed_before _ (Nat.le_of_lt hlt)

/-- Settles O52: each instruction writes the one field of its timer. -/
theorem settingATimerReplacesItsPair : Obligations.SettingATimerReplacesItsPair :=
  fun s x => ⟨⟨s.setDt ⟨s.getV x, s.env.now⟩, rfl, rfl, rfl, rfl,
      fun _ => rfl, rfl, rfl, fun _ => rfl, ⟨fun _ _ => rfl, rfl⟩, ⟨rfl, rfl⟩, rfl, rfl, rfl, rfl, rfl, rfl, rfl⟩,
    ⟨s.setSt ⟨s.getV x, s.env.now⟩, rfl, rfl, rfl, rfl,
      fun _ => rfl, rfl, rfl, fun _ => rfl, ⟨fun _ _ => rfl, rfl⟩, ⟨rfl, rfl⟩, rfl, rfl, rfl, rfl, rfl, rfl, rfl⟩⟩

/-- Settles O54: both timers are displayed by the one function of the time. -/
theorem aDisplayedTimerDecaysToZero : Obligations.ADisplayedTimerDecaysToZero := by
  intro s d val hu hd
  have hval : val = d.displayed s.unitsPerSecond := by
    obtain ⟨rfl, rfl⟩ | ⟨rfl, rfl⟩ := hd <;> rfl
  subst hval
  exact ⟨fun _ => displayed_of_le _, displayed_le d _, fun _ _ => displayed_antitone d _, fun _ => displayed_before _,
    fun _ => displayed_eq_zero hu⟩

/-- Settles O55: after its instruction each timer is set at the time of the sample. -/
theorem aTimerLosesOneEachTickAfterItIsSet : Obligations.ATimerLosesOneEachTickAfterItIsSet := by
  rintro s x _ _ hu (⟨rfl, rfl⟩ | ⟨rfl, rfl⟩)
  · exact ⟨s.setDt ⟨s.getV x, s.env.now⟩, rfl, displayed_loses_each_tick (s.getV x) s.env.now hu⟩
  · exact ⟨s.setSt ⟨s.getV x, s.env.now⟩, rfl, displayed_loses_each_tick (s.getV x) s.env.now hu⟩

end Sys2Proof.Machine
end

section
/-! Reset and the load of an image (10_state.md R43, 70_reset_and_hazards.md R250 to R255), and the obligations on them. -/

namespace Sys2Proof.Machine

/-! ### The memory of a loaded image -/

theorem read_image {font : Font} {image : List Byte} {k : Nat} (h : image.length ≤ 3584) (hk : k < image.length) :
    ((Memory.initial font).writeBytes 0x200 image).read (0x200 + k) = image[k] :=
  Memory.read_writeBytes_add _ (by omega) hk

/-- Outside the image memory holds what it holds with nothing loaded. -/
theorem read_outside_image {font : Font} {image : List Byte} {a : Nat} (h : image.length ≤ 3584)
    (ha : a < 0x200 ∨ 0x200 + image.length ≤ a) :
    ((Memory.initial font).writeBytes 0x200 image).read a = Memory.unlisted font a := by
  rw [Memory.read_writeBytes _ _ _ _ (by omega)]
  split
  · rw [List.getElem?_eq_none (by omega)]
    rfl
  · rfl

/-! ### The obligations -/

/-- Settles O56, field by field. -/
theorem resetLeavesTheStatedValues : Obligations.ResetLeavesTheStatedValues := by
  refine ⟨rfl, rfl, rfl, fun r => ?_, fun k => ?_, rfl, rfl, Frame.get_off, rfl, rfl, Memory.unlisted_font _,
    fun a => Memory.unlisted_zero _⟩
  · exact Vector.getElem_replicate ..
  · exact Vector.getElem_replicate ..

/-- Settles O57: the image overwrites neither the font nor anything outside itself. -/
theorem anImageIsLoadedAtTheProgramBase : Obligations.AnImageIsLoadedAtTheProgramBase := by
  refine fun q u font image hu => ⟨fun hlen => ?_, fun hlen => ?_⟩
  · refine ⟨_, if_pos ⟨hlen, hu⟩, fun k hk => ?_, fun k => ?_, fun a ha => ?_,
      rfl, rfl, Memory.writeBytes_font .., rfl, rfl, rfl,
      fun _ => rfl, rfl, ⟨rfl, rfl⟩, ⟨rfl, rfl⟩, ⟨fun _ _ => rfl, rfl⟩, rfl, rfl, rfl,
      Memory.writeBytes_wf _ _ (Memory.initial_wf font)⟩
    · refine (read_image hlen hk).trans ?_
      rw [List.getElem?_eq_getElem hk]
      rfl
    · refine (read_outside_image hlen (.inl ?_)).trans (Memory.unlisted_font font k)
      omega
    · refine (read_outside_image hlen ?_).trans (Memory.unlisted_zero font ?_) <;> omega
  · exact if_neg fun h => Nat.not_lt.2 h.1 hlen

end Sys2Proof.Machine
end

section
/-! What an instruction does not depend on (10_state.md R32, R37 to R40), read off the completed instruction, and the
obligations on it. -/

namespace Sys2Proof.Machine

/-! ### Another sample -/

/-- No fault depends on the inputs. -/
theorem faultCause_withEnv (i : Instr) (s : State) (e : Env) : faultCause i (s.withEnv e) = faultCause i s := by
  cases i <;> rfl

theorem completed_withEnv {i : Instr} {s : State} {e : Env} (h : agreeFor i s.env e) :
    completed i (s.withEnv e) = (completed i s).withEnv e := by
  cases i with
  | rndVxKk x kk =>
    have hrnd : s.env.rnd = e.rnd := h
    simp only [completed, hrnd]
    rfl
  | skp _ | sknp _ =>
    have hkeys : s.env.keys = e.keys := h
    simp only [completed, hkeys]
    rfl
  | ldVxDt _ | ldDtVx _ | ldStVx _ =>
    have hnow : s.env.now = e.now := h
    simp only [completed, hnow]
    rfl
  | _ => rfl

/-! ### Other quirks -/

theorem faultCause_withQuirks (i : Instr) (s : State) (q : Quirks) : faultCause i (s.withQuirks q) = faultCause i s := by
  cases i <;> rfl

/-- A shift of a register by itself has one source under both settings (70_reset_and_hazards.md R260). -/
theorem shiftSource_self (s : State) (x : Reg) : s.shiftSource x x = s.getV x := ite_self _

/-- A `Bnnn` whose high nibble is 0 names `V0` under both settings (70_reset_and_hazards.md R260). -/
theorem jumpOffset_of_low (s : State) {nnn : Addr12} (h : nnn.toNat < 256) : s.jumpOffset nnn = s.getV 0 := by
  have hreg : addressNibble nnn = 0 := Fin.ext ((addressNibble_val nnn).trans (Nat.div_eq_of_lt h))
  rw [State.jumpOffset, hreg]
  exact ite_self _

theorem completed_withQuirks {i : Instr} (s : State) (q : Quirks)
    (h : quirkDependent i = false ∨ (∃ x, i = .shrVxVy x x ∨ i = .shlVxVy x x) ∨
      ∃ nnn, i = .jpV0Nnn nnn ∧ nnn.toNat < 256) :
    completed i (s.withQuirks q) = (completed i s).withQuirks q := by
  obtain h | ⟨x, rfl | rfl⟩ | ⟨nnn, rfl, hlow⟩ := h
  · cases i with
    | shrVxVy _ _ | shlVxVy _ _ | jpV0Nnn _ | addIVx _ | ldMemVx _ | ldVxMem _ => cases h
    | _ => rfl
  · simp only [completed, shiftSource_self]
    rfl
  · simp only [completed, shiftSource_self]
    rfl
  · simp only [completed, jumpOffset_of_low _ hlow]
    rfl

/-! ### The obligations -/

/-- Settles O58: neither the fault nor the completed state depends on more than the instruction reads. -/
theorem eachInputIsReadByItsInstructionsOnly : Obligations.EachInputIsReadByItsInstructionsOnly := by
  intro i s t e hagree hexec
  obtain ⟨hfault, rfl⟩ := exec_eq_next hexec
  rw [exec_of_faultCause_none ((faultCause_withEnv i s e).trans hfault), completed_withEnv hagree]

/-- Settles O59: no fault depends on the quirks, and of the completed states only those that select by one. -/
theorem theQuirksSelectInSixInstructionsOnly : Obligations.TheQuirksSelectInSixInstructionsOnly := by
  intro i s t q hexec hi
  obtain ⟨hfault, rfl⟩ := exec_eq_next hexec
  rw [exec_of_faultCause_none ((faultCause_withQuirks i s q).trans hfault), completed_withQuirks s q hi]

end Sys2Proof.Machine
end
